-- ==== Sys2Proof/Word.lean ====
section
/-! DEFINITION. The word types of the core: bytes, frames and texts (00_scope.md R11). -/

namespace Sys2Proof

/-- A byte: 8 bits, read as an unsigned number (R11). -/
abbrev Byte := BitVec 8

/-- A byte sequence in wire order, leftmost first (R11, R57). -/
abbrev Frame := List Byte

/-- A character sequence: what the core hands upstream (R56). -/
abbrev Text := List Char

end Sys2Proof
end

