-- ==== Sys2Proof/Config.lean ====
section
/-! DEFINITION. The parameters of the core (00_scope.md R8, R9), and the free value for the one of them that has no
default (R174). -/

namespace Sys2Proof

/-- What the Session does on a Framer `Err` in Run (`ERR_POLICY`, R9, R131). -/
inductive ErrPolicy where
  | retryTableA
  | stayInRun
  deriving DecidableEq, Repr

/-- The first Session state, in code order, whose ticks are throttled (`THROTTLE_FIRST_STATE`, R9, R122). -/
inductive ThrottleFirst where
  | run
  | wake
  deriving DecidableEq, Repr

/-- The parameters fixed when the core is built (R8, R9, R225).  State carries them in a field that no operation
writes, so a statement about every state is a statement about every value of them.
DESIGN CHOICE, safe: notes/assumptions/1.md. -/
structure Config where
  /-- `ERR_POLICY` (R131). -/
  errPolicy : ErrPolicy
  /-- `THROTTLE_FIRST_STATE` (R122). -/
  throttleFirst : ThrottleFirst
  /-- `TICK_RESET_ON_OK` (R130). -/
  tickResetOnOk : Bool
  /-- `TICK_THRESHOLD`: raw ticks per throttled tick (R8). -/
  tickThreshold : Nat
  /-- `WATCHDOG_MAX`: the watchdog expires when its count exceeds this (R8). -/
  watchdogMax : Nat
  /-- `DIAG_REPORT`: the text sent upstream at every watchdog expiry, any characters, the empty text included
  (R9, R174). -/
  diagReport : Text
  deriving DecidableEq, Repr

/-- The ranges R9 asks a model to require of the two numbers it lets vary. -/
abbrev Config.Admitted (c : Config) : Prop :=
  1 ≤ c.tickThreshold ∧ c.tickThreshold ≤ 255 ∧ c.watchdogMax ≤ 254

/-- The `DIAG_REPORT` of the reference parameters: R9 gives it no default, so nothing is known of it, not even its
length.  Free value: notes/assumptions/7.md. -/
opaque Config.freeDiagReport : Text

end Sys2Proof
end

