-- ==== Sys2Proof/Syntax.lean ====
section
/-! DEFINITION. The operations of the core, one constructor per row of spec/opcode_table.json, and the closed
enumerations they mention (30_encoding.md R73, R74, R75, R80, R90, R94). -/

namespace Sys2Proof

/-- Why `step` is called (R73, R120).  Reason code 3 cannot be written down (R91). -/
inductive Reason where
  | tick
  | byteReceived
  | forceReinit
  deriving DecidableEq, Repr

/-- The Framer's states (R25). -/
inductive FState where
  | idle
  | readingLength
  | readingData
  deriving DecidableEq, Repr

/-- The Session's states, in the order that gives their codes (R29). -/
inductive SState where
  | idle
  | lineBreak
  | wake
  | init
  | run
  | retryTableA
  deriving DecidableEq, Repr

/-- The result of one `feed` call (R36). -/
inductive FResult where
  | none
  | ok
  | err
  deriving DecidableEq, Repr

/-- `ContinueSignal`, the result of one `step` call (R37): `cont` is `Continue`. -/
inductive ContinueSignal where
  | cont
  | needsFullReinit
  deriving DecidableEq, Repr

/-- The four request templates (R35, R78). -/
inductive Template where
  | wake
  | init
  | readTableA
  | readTableB
  deriving DecidableEq, Repr

/-- The encoding spaces of the opcode table (R94). -/
inductive Format where
  | ev
  | sk
  | fk
  | mk
  | tpl
  | up
  | int
  deriving DecidableEq, Repr

/-- A word of one of the encoding spaces (R94).  The spaces overlap as numbers, so a word says which one it is of.
A Session key stands beside the byte argument of the `step` call it belongs to (R74, R120). -/
inductive OpWord where
  | ev (w : BitVec 10)
  | sk (key : BitVec 5) (byte : Byte)
  | fk (w : BitVec 10)
  | mk (w : BitVec 32)
  | tpl (frame : Frame)
  | up (text : Text)
  deriving DecidableEq, Repr

/-- An operation of the core (R3).  Operands named after bits the rule ignores are carried so that no bit of an
encoding is lost; no meaning reads them. -/
inductive Instr where
  /-- EV_TICK: `step(Tick, _)` (R73, R120). -/
  | evTick (ignored : Byte)
  /-- EV_BYTE: `step(ByteReceived, byte)` (R73, R120). -/
  | evByte (byte : Byte)
  /-- EV_FORCE_REINIT: `step(ForceReinit, _)` (R73, R120). -/
  | evForceReinit (ignored : Byte)
  /-- S_FORCE_REINIT (R121); `st` is the key's `sstate` field, any state. -/
  | sForceReinit (st : SState)
  /-- S_THROTTLE (R122): the stage before a Tick's arm in the throttled state `st`. -/
  | sThrottle (st : SState)
  /-- S_IDLE_ANY (R124): reason Tick or ByteReceived. -/
  | sIdleAny (r : Reason) (ignored : Byte)
  /-- S_LINEBREAK_ANY (R125): reason Tick or ByteReceived. -/
  | sLinebreakAny (r : Reason) (ignored : Byte)
  /-- S_WAKE_TICK (R126). -/
  | sWakeTick
  /-- S_DROP_BYTE.WAKE (R135). -/
  | sDropByteWake (ignored : Byte)
  /-- S_INIT_TICK (R127). -/
  | sInitTick
  /-- S_DROP_BYTE.INIT (R135). -/
  | sDropByteInit (ignored : Byte)
  /-- S_RUN_TICK (R133). -/
  | sRunTick
  /-- S_RUN_BYTE (R128). -/
  | sRunByte (byte : Byte)
  /-- S_RETRY_TICK (R134). -/
  | sRetryTick
  /-- S_DROP_BYTE.RETRY (R135). -/
  | sDropByteRetry (ignored : Byte)
  /-- S_RUN_OK (R130). -/
  | sRunOk
  /-- S_RUN_ERR (R131). -/
  | sRunErr
  /-- S_RUN_NONE (R132). -/
  | sRunNone
  /-- FEED_ADDR (R101). -/
  | feedAddr (byte : Byte)
  /-- FEED_LEN_OK (R102): `byte` is a legal length. -/
  | feedLenOk (byte : Byte)
  /-- FEED_LEN_BAD (R103): `byte` is no legal length. -/
  | feedLenBad (byte : Byte)
  /-- FEED_DATA (R104). -/
  | feedData (byte : Byte)
  /-- RESET (R105). -/
  | reset
  /-- CHECKSUM (R106), of `buf[0..L-2]` with `L` the `length` register. -/
  | checksum
  /-- RSP_INIT_ACK (R152). -/
  | rspInitAck (len tableId : Byte)
  /-- RSP_TABLE_DATA (R153): the stage common to the three table-data classes. -/
  | rspTableData (len tableId : Byte)
  /-- RSP_TABLE_A (R154, with R153). -/
  | rspTableA (len : Byte)
  /-- RSP_TABLE_B (R155, with R153). -/
  | rspTableB (len : Byte)
  /-- RSP_TABLE_OTHER (R156, with R153). -/
  | rspTableOther (len tableId : Byte)
  /-- RSP_OTHER (R158). -/
  | rspOther (len opcode tableId : Byte)
  /-- NON_RESPONSE (R151). -/
  | nonResponse (address len opcode tableId : Byte)
  /-- SEND_DOWN.WAKE (R170). -/
  | sendDownWake
  /-- SEND_DOWN.INIT (R170). -/
  | sendDownInit
  /-- SEND_DOWN.READ_TABLE_A (R170). -/
  | sendDownReadTableA
  /-- SEND_DOWN.READ_TABLE_B (R170). -/
  | sendDownReadTableB
  /-- SEND_UP.REPORT (R172): the report of the message `m`. -/
  | sendUpReport (m : Frame)
  /-- SEND_UP.DIAG (R174). -/
  | sendUpDiag
  /-- SEND_UP (R171). -/
  | sendUp (chars : Text)
  /-- HEX2 (R173). -/
  | hex2 (byte : Byte)
  deriving DecidableEq, Repr

end Sys2Proof
end

