-- ==== Sys2Proof/Machine/Constants.lean ====
section
/-! DEFINITION. The constants of 00_scope.md R8, the template ROM (R78), the reference parameters, and the numeric
codes of the enumerations (R25, R29, R36, R37, R73). -/

namespace Sys2Proof

/-- `CAPACITY` (R8): the number of buffer cells and the largest legal length.  notes/assumptions/8.md. -/
abbrev capacity : Nat := 32

/-- `MIN_LENGTH` (R8). -/
abbrev minLength : Nat := 3

/-- `RESPONSE_MARKER` (R8). -/
abbrev responseMarker : Byte := 0x02

/-- `OP_INIT_ACK` (R8). -/
abbrev opInitAck : Byte := 0x00

/-- `OP_TABLE_DATA` (R8). -/
abbrev opTableData : Byte := 0x71

/-- `TABLE_A` (R8). -/
abbrev tableA : Byte := 0x11

/-- `TABLE_B` (R8). -/
abbrev tableB : Byte := 0xD1

/-- The reference values of the parameters: the constants of R8 and the defaults of R9, and the free value for
`DIAG_REPORT`, which has none. -/
def Config.reference : Config where
  errPolicy := .retryTableA
  throttleFirst := .run
  tickResetOnOk := false
  tickThreshold := 50
  watchdogMax := 5
  diagReport := Config.freeDiagReport

/-- `MemRead(ROM, t, n)` (R54, R78): the bytes of a template, first byte sent first. -/
def rom : Template → Frame
  | .wake => [0xFE, 0x04, 0xFF, 0xFF]
  | .init => [0x72, 0x05, 0x00, 0xF0, 0x99]
  | .readTableA => [0x72, 0x05, 0x71, 0x11, 0x07]
  | .readTableB => [0x72, 0x05, 0x71, 0xD1, 0x47]

/-- Reason codes (R73). -/
def Reason.code : Reason → BitVec 2
  | .tick => 0
  | .byteReceived => 1
  | .forceReinit => 2

/-- The reason of a code; code 3 is not an event (R91). -/
def Reason.ofCode (c : BitVec 2) : Option Reason :=
  if c = 0 then some .tick else if c = 1 then some .byteReceived else if c = 2 then some .forceReinit else none

/-- Framer state codes (R25). -/
def FState.code : FState → BitVec 2
  | .idle => 0
  | .readingLength => 1
  | .readingData => 2

/-- The Framer state of a code; code 3 is unused (R90). -/
def FState.ofCode (c : BitVec 2) : Option FState :=
  if c = 0 then some .idle else if c = 1 then some .readingLength else if c = 2 then some .readingData else none

/-- Session state codes (R29). -/
def SState.code : SState → BitVec 3
  | .idle => 0
  | .lineBreak => 1
  | .wake => 2
  | .init => 3
  | .run => 4
  | .retryTableA => 5

/-- The Session state of a code; codes 6 and 7 are unused (R90). -/
def SState.ofCode (c : BitVec 3) : Option SState :=
  if c = 0 then some .idle else if c = 1 then some .lineBreak else if c = 2 then some .wake
  else if c = 3 then some .init else if c = 4 then some .run else if c = 5 then some .retryTableA else none

/-- Framer result codes (R36). -/
def FResult.code : FResult → BitVec 2
  | .none => 0
  | .ok => 1
  | .err => 2

/-- `ContinueSignal` codes (R37). -/
def ContinueSignal.code : ContinueSignal → BitVec 1
  | .cont => 0
  | .needsFullReinit => 1

/-- The state that `THROTTLE_FIRST_STATE` names (R9). -/
def ThrottleFirst.state : ThrottleFirst → SState
  | .run => .run
  | .wake => .wake

end Sys2Proof
end

