-- ==== Sys2Proof/Machine/Report.lean ====
section
/-! DEFINITION. The upstream report of a message (43_host_interface.md R172, R173) and its reading back. -/

namespace Sys2Proof

/-- The uppercase hexadecimal digit of a value below 16 (R173). -/
def hexDigit (n : Nat) : Char :=
  if n < 10 then Char.ofNat (48 + n) else Char.ofNat (55 + n)

/-- `hex2(b)`: the digit of `b[7:4]`, then the digit of `b[3:0]` (R173). -/
def hex2 (b : Byte) : Text :=
  [hexDigit (b.toNat / 16), hexDigit (b.toNat % 16)]

/-- The characters of a byte sequence, two a byte, in message order (R172). -/
def hexText : Frame → Text
  | [] => []
  | b :: rest => hex2 b ++ hexText rest

/-- `report(m)`: `:` and then two characters per byte (R172). -/
def report (m : Frame) : Text :=
  ':' :: hexText m

/-- The value of an uppercase hexadecimal digit. -/
def hexValue (c : Char) : Option Nat :=
  if 48 ≤ c.toNat ∧ c.toNat ≤ 57 then some (c.toNat - 48)
  else if 65 ≤ c.toNat ∧ c.toNat ≤ 70 then some (c.toNat - 55)
  else none

/-- The bytes of a text of digit pairs; none when it is not such a text. -/
def readHexText : Text → Option Frame
  | [] => some []
  | [_] => none
  | hi :: lo :: rest =>
    match hexValue hi, hexValue lo, readHexText rest with
    | some h, some l, some m => some (BitVec.ofNat 8 (16 * h + l) :: m)
    | _, _, _ => none

/-- The message whose report a text is, when it is one (format `UP`, R94). -/
def readReport : Text → Option Frame
  | [] => none
  | c :: rest => if c = ':' then readHexText rest else none

end Sys2Proof
end

