-- ==== Sys2Proof/Machine/Flags.lean ====
section
/-! DEFINITION. The tests and the one arithmetic function of the core (60_exceptions.md R205).  The core has no status
flag (10_state.md R36): these are the comparisons its operations make, as pure functions of the values compared. -/

namespace Sys2Proof

/-- Is the byte a legal length, `MIN_LENGTH <= byte <= CAPACITY`, compared unsigned (R71, R85, R102)? -/
def legalLength (b : Byte) : Bool :=
  decide (minLength ≤ b.toNat) && decide (b.toNat ≤ capacity)

/-- `sum(s)`: the sum of the bytes as an unbounded natural number (R12). -/
def byteSum : Frame → Nat
  | [] => 0
  | b :: rest => b.toNat + byteSum rest

/-- `checksum(s) = (0x100 - (sum(s) mod 256)) mod 256` (R106). -/
def checksum (s : Frame) : Byte :=
  BitVec.ofNat 8 ((0x100 - byteSum s % 256) % 256)

/-- Are ticks throttled in this Session state: `code(s) >= code(THROTTLE_FIRST_STATE)` (R122)? -/
def throttled (first : ThrottleFirst) (st : SState) : Bool :=
  decide (first.state.code.toNat ≤ st.code.toNat)

/-- `watchdogCount > WATCHDOG_MAX` (R133). -/
def watchdogExpired (c : Config) (count : Byte) : Bool :=
  decide (c.watchdogMax < count.toNat)

end Sys2Proof
end

