-- ==== Sys2Proof/WellFormed.lean ====
section
/-! DEFINITION. Which operations are well formed: the conditions the opcode table's `when` and the order of its rows
put on an operation's fields (30_encoding.md R74, R75, R80, R94). -/

namespace Sys2Proof

/-- The conditions on the fields of an operation, under the parameters `c`. -/
def Instr.WellFormed (c : Config) : Instr → Bool
  | .sThrottle st => throttled c.throttleFirst st
  | .sIdleAny r _ => decide (r ≠ .forceReinit)
  | .sLinebreakAny r _ => decide (r ≠ .forceReinit)
  | .feedLenOk b => legalLength b
  | .feedLenBad b => !legalLength b
  | .rspTableOther _ tid => decide (tid ≠ tableA) && decide (tid ≠ tableB)
  | .rspOther _ op _ => decide (op ≠ opInitAck) && decide (op ≠ opTableData)
  | .nonResponse a _ _ _ => decide (a ≠ responseMarker)
  | .evTick _ | .evByte _ | .evForceReinit _ | .sForceReinit _ | .sWakeTick | .sDropByteWake _ | .sInitTick
  | .sDropByteInit _ | .sRunTick | .sRunByte _ | .sRetryTick | .sDropByteRetry _ | .sRunOk | .sRunErr | .sRunNone
  | .feedAddr _ | .feedData _ | .reset | .checksum | .rspInitAck _ _ | .rspTableData _ _ | .rspTableA _
  | .rspTableB _ | .sendDownWake | .sendDownInit | .sendDownReadTableA | .sendDownReadTableB | .sendUpReport _
  | .sendUpDiag | .sendUp _ | .hex2 _ => true

end Sys2Proof
end

