-- ==== Sys2Proof/Decode.lean ====
section
/-! DEFINITION. The decoders of the encoding spaces and the encoder (30_encoding.md R73 to R94). -/

namespace Sys2Proof

/-- Why a word is no operation. -/
inductive Reject where
  /-- Reason code 3 is not an event (R91). -/
  | reservedReason
  /-- Session state codes 6 and 7 are unused (R90). -/
  | unusedSessionState
  /-- Framer state code 3 is unused (R90). -/
  | unusedFramerState
  /-- A downstream frame that is none of the four templates (R55). -/
  | notATemplate
  deriving DecidableEq, Repr

/-- What a decoder answers. -/
inductive Decoded where
  | instr (i : Instr)
  | reject (r : Reject)
  deriving DecidableEq, Repr

/-- The decoded operation, when there is one. -/
def Decoded.toOption : Decoded → Option Instr
  | .instr i => some i
  | .reject _ => none

/-- The event word of a call of `step`: `ev[9:8] = reason`, `ev[7:0] = byte` (R73). -/
def evWord (r : Reason) (b : Byte) : BitVec 10 := r.code ++ b

/-- The Session key: `sk[4:2] = sstate`, `sk[1:0] = reason` (R74). -/
def skWord (st : SState) (r : Reason) : BitVec 5 := st.code ++ r.code

/-- The Framer key: `fk[9:8] = fstate`, `fk[7:0] = byte` (R75). -/
def fkWord (f : FState) (b : Byte) : BitVec 10 := f.code ++ b

/-- The message key: the first four buffer cells, `buf[0]` most significant (R80). -/
def mkWord (b0 b1 b2 b3 : Byte) : BitVec 32 := b0 ++ b1 ++ b2 ++ b3

/-- Format `EV` (R73). -/
def decodeEv (w : BitVec 10) : Decoded :=
  match Reason.ofCode (w.extractLsb' 8 2) with
  | some .tick => .instr (.evTick (w.extractLsb' 0 8))
  | some .byteReceived => .instr (.evByte (w.extractLsb' 0 8))
  | some .forceReinit => .instr (.evForceReinit (w.extractLsb' 0 8))
  | none => .reject .reservedReason

/-- The arm of a reason and a Session state: the rows of order 1 and 3 of format `SK` (R74). -/
def skArm (r : Reason) (st : SState) (b : Byte) : Instr :=
  match r, st with
  | .forceReinit, st => .sForceReinit st
  | .tick, .idle => .sIdleAny .tick b
  | .byteReceived, .idle => .sIdleAny .byteReceived b
  | .tick, .lineBreak => .sLinebreakAny .tick b
  | .byteReceived, .lineBreak => .sLinebreakAny .byteReceived b
  | .tick, .wake => .sWakeTick
  | .byteReceived, .wake => .sDropByteWake b
  | .tick, .init => .sInitTick
  | .byteReceived, .init => .sDropByteInit b
  | .tick, .run => .sRunTick
  | .byteReceived, .run => .sRunByte b
  | .tick, .retryTableA => .sRetryTick
  | .byteReceived, .retryTableA => .sDropByteRetry b

/-- Format `SK` (R74), with the byte argument of the call. -/
def decodeSk (key : BitVec 5) (b : Byte) : Decoded :=
  match Reason.ofCode (key.extractLsb' 0 2), SState.ofCode (key.extractLsb' 2 3) with
  | none, _ => .reject .reservedReason
  | some _, none => .reject .unusedSessionState
  | some r, some st => .instr (skArm r st b)

/-- Format `FK` (R75). -/
def decodeFk (w : BitVec 10) : Decoded :=
  match FState.ofCode (w.extractLsb' 8 2) with
  | some .idle => .instr (.feedAddr (w.extractLsb' 0 8))
  | some .readingLength =>
    if legalLength (w.extractLsb' 0 8) then .instr (.feedLenOk (w.extractLsb' 0 8))
    else .instr (.feedLenBad (w.extractLsb' 0 8))
  | some .readingData => .instr (.feedData (w.extractLsb' 0 8))
  | none => .reject .unusedFramerState

/-- The class of a message key: the six rows of R80, tested in their order, the first that matches. -/
def mkClass (w : BitVec 32) : Instr :=
  if w &&& 0xFF00FF00#32 = 0x02000000#32 then .rspInitAck (w.extractLsb' 16 8) (w.extractLsb' 0 8)
  else if w &&& 0xFF00FFFF#32 = 0x02007111#32 then .rspTableA (w.extractLsb' 16 8)
  else if w &&& 0xFF00FFFF#32 = 0x020071D1#32 then .rspTableB (w.extractLsb' 16 8)
  else if w &&& 0xFF00FF00#32 = 0x02007100#32 then .rspTableOther (w.extractLsb' 16 8) (w.extractLsb' 0 8)
  else if w &&& 0xFF000000#32 = 0x02000000#32 then
    .rspOther (w.extractLsb' 16 8) (w.extractLsb' 8 8) (w.extractLsb' 0 8)
  else .nonResponse (w.extractLsb' 24 8) (w.extractLsb' 16 8) (w.extractLsb' 8 8) (w.extractLsb' 0 8)

/-- Formats `TPL4` and `TPL5`: whole frames with every bit fixed (R78, R94). -/
def decodeTpl (f : Frame) : Decoded :=
  if f = rom .wake then .instr .sendDownWake
  else if f = rom .init then .instr .sendDownInit
  else if f = rom .readTableA then .instr .sendDownReadTableA
  else if f = rom .readTableB then .instr .sendDownReadTableB
  else .reject .notATemplate

/-- Format `UP`: a text that is a report is one; the row of the diagnostic text, whose mask is 0, takes every
other (R94, R174).  DEDUCED: notes/assumptions/11.md. -/
def decodeUp (t : Text) : Decoded :=
  match readReport t with
  | some m => .instr (.sendUpReport m)
  | none => .instr .sendUpDiag

/-- The operation a word selects: the arm or the class, as against the stages that run before it (R94). -/
def decode : OpWord → Decoded
  | .ev w => decodeEv w
  | .sk key b => decodeSk key b
  | .fk w => decodeFk w
  | .mk w => .instr (mkClass w)
  | .tpl f => decodeTpl f
  | .up t => decodeUp t

/-- The stage that runs before the operation a word selects: the throttle before a Tick's arm in a throttled state,
and the upstream report before the table-id test (R94, R122, R153). -/
def stageOf (c : Config) : OpWord → Option Instr
  | .sk key _ =>
    match Reason.ofCode (key.extractLsb' 0 2), SState.ofCode (key.extractLsb' 2 3) with
    | some .tick, some st => if throttled c.throttleFirst st then some (.sThrottle st) else none
    | _, _ => none
  | .mk w =>
    if w &&& 0xFF00FF00#32 = 0x02007100#32 then some (.rspTableData (w.extractLsb' 16 8) (w.extractLsb' 0 8)) else none
  | .ev _ | .fk _ | .tpl _ | .up _ => none

/-- The word of an operation under the parameters `c`, whose `DIAG_REPORT` is the word of SEND_UP.DIAG; the rows of
format `INT` have none (R94). -/
def encode (c : Config) : Instr → Option OpWord
  | .evTick b => some (.ev (evWord .tick b))
  | .evByte b => some (.ev (evWord .byteReceived b))
  | .evForceReinit b => some (.ev (evWord .forceReinit b))
  | .sForceReinit st => some (.sk (skWord st .forceReinit) 0)
  | .sThrottle st => some (.sk (skWord st .tick) 0)
  | .sIdleAny r b => some (.sk (skWord .idle r) b)
  | .sLinebreakAny r b => some (.sk (skWord .lineBreak r) b)
  | .sWakeTick => some (.sk (skWord .wake .tick) 0)
  | .sDropByteWake b => some (.sk (skWord .wake .byteReceived) b)
  | .sInitTick => some (.sk (skWord .init .tick) 0)
  | .sDropByteInit b => some (.sk (skWord .init .byteReceived) b)
  | .sRunTick => some (.sk (skWord .run .tick) 0)
  | .sRunByte b => some (.sk (skWord .run .byteReceived) b)
  | .sRetryTick => some (.sk (skWord .retryTableA .tick) 0)
  | .sDropByteRetry b => some (.sk (skWord .retryTableA .byteReceived) b)
  | .feedAddr b => some (.fk (fkWord .idle b))
  | .feedLenOk b => some (.fk (fkWord .readingLength b))
  | .feedLenBad b => some (.fk (fkWord .readingLength b))
  | .feedData b => some (.fk (fkWord .readingData b))
  | .rspInitAck len tid => some (.mk (mkWord responseMarker len opInitAck tid))
  | .rspTableData len tid => some (.mk (mkWord responseMarker len opTableData tid))
  | .rspTableA len => some (.mk (mkWord responseMarker len opTableData tableA))
  | .rspTableB len => some (.mk (mkWord responseMarker len opTableData tableB))
  | .rspTableOther len tid => some (.mk (mkWord responseMarker len opTableData tid))
  | .rspOther len op tid => some (.mk (mkWord responseMarker len op tid))
  | .nonResponse a len op tid => some (.mk (mkWord a len op tid))
  | .sendDownWake => some (.tpl (rom .wake))
  | .sendDownInit => some (.tpl (rom .init))
  | .sendDownReadTableA => some (.tpl (rom .readTableA))
  | .sendDownReadTableB => some (.tpl (rom .readTableB))
  | .sendUpReport m => some (.up (report m))
  | .sendUpDiag => some (.up c.diagReport)
  | .sRunOk | .sRunErr | .sRunNone | .reset | .checksum | .sendUp _ | .hex2 _ => none

/-- Is the operation a stage, run before the operation its word selects (R94)? -/
def Instr.isStage : Instr → Bool
  | .sThrottle _ | .rspTableData _ _ => true
  | .evTick _ | .evByte _ | .evForceReinit _ | .sForceReinit _ | .sIdleAny _ _ | .sLinebreakAny _ _ | .sWakeTick
  | .sDropByteWake _ | .sInitTick | .sDropByteInit _ | .sRunTick | .sRunByte _ | .sRetryTick | .sDropByteRetry _
  | .sRunOk | .sRunErr | .sRunNone | .feedAddr _ | .feedLenOk _ | .feedLenBad _ | .feedData _ | .reset | .checksum
  | .rspInitAck _ _ | .rspTableA _ | .rspTableB _ | .rspTableOther _ _ | .rspOther _ _ _ | .nonResponse _ _ _ _
  | .sendDownWake | .sendDownInit | .sendDownReadTableA | .sendDownReadTableB | .sendUpReport _ | .sendUpDiag
  | .sendUp _ | .hex2 _ => false

/-- The word that `nbits` bits with the value `w` stand for, numbered as spec/opcode_table.json numbers them.  The
table's formats share widths; where two formats meet, the one taken is: 16 bits are an event word; 8 bits below 0x20
are a Session key (with a zero byte argument) and otherwise the first character of an upstream text; 32 bits equal to
the Wake template are that frame and otherwise a message key.  DESIGN CHOICE: notes/assumptions/11.md. -/
def tableOpWord (nbits w : Nat) : Option OpWord :=
  if nbits = 0 ∨ 2 ^ nbits ≤ w then none
  else if nbits ≤ 8 then
    if w < 0x20 then some (.sk (BitVec.ofNat 5 w) 0) else some (.up [Char.ofNat w])
  else if nbits ≤ 16 then
    if w < 0x400 then some (.ev (BitVec.ofNat 10 w)) else none
  else if nbits ≤ 32 then
    if w = 0xFE04FFFF then some (.tpl (rom .wake)) else some (.mk (BitVec.ofNat 32 w))
  else if nbits ≤ 40 then
    some (.tpl [BitVec.ofNat 8 (w >>> 32), BitVec.ofNat 8 (w >>> 24), BitVec.ofNat 8 (w >>> 16),
      BitVec.ofNat 8 (w >>> 8), BitVec.ofNat 8 w])
  else none

/-- The operation the decoder reads from an opcode-table word (see `tableOpWord`). -/
def decodeTableWord (nbits w : Nat) : Option Instr :=
  match tableOpWord nbits w with
  | some o => (decode o).toOption
  | none => none

end Sys2Proof
end

