-- ==== Sys2Proof/Machine/State.lean ====
section
/-! DEFINITION. The state of the core (10_state.md R20), its configuration, and the two sides of its host interface;
the reasons a step can stop; the state after power-on reset (R41). -/

namespace Sys2Proof.Machine

/-- The frame buffer (R21): (cell, byte) pairs with rising cell numbers and no 0x00 byte; a cell of the buffer that is
not listed reads 0x00.  DESIGN CHOICE, unsafe: notes/assumptions/5.md. -/
abbrev Memory := List Host.Cell

/-- What the core hands to the host: the two output actions and the return of a `step` call (R13, R170, R171, R120). -/
inductive Output where
  /-- `emit Down(bytes)` (R170). -/
  | down (frame : Frame)
  /-- `emit Up(chars)` (R171). -/
  | up (text : Text)
  /-- A `step` call returned this signal (R120). -/
  | returned (c : ContinueSignal)
  deriving DecidableEq, Repr

/-- The value an operation returns (R36, R37, R150, R106, R173). -/
inductive Ret where
  /-- No value. -/
  | nothing
  /-- The result of `step` or of one of its arms. -/
  | signal (c : ContinueSignal)
  /-- The result of `feed`. -/
  | framer (r : FResult)
  /-- The next Session state that `classify` returns. -/
  | next (st : SState)
  /-- A byte: the checksum. -/
  | byte (b : Byte)
  /-- Characters: two hexadecimal digits. -/
  | chars (t : Text)
  deriving DecidableEq, Repr

/-- The state.  The first seven fields are the whole state of the core (R20); `cfg` is its configuration; the last
three are the model's own and hold the host interface (notes/assumptions/2.md to 4.md). -/
structure State where
  /-- Framer state (R25). -/
  fstate : FState
  /-- The number of bytes held, and the cell the next byte goes to (R26). -/
  index : BitVec 6
  /-- The expected length of the message being built (R28). -/
  length : BitVec 8
  /-- The frame buffer (R21). -/
  buf : Memory
  /-- Session state (R29). -/
  sstate : SState
  /-- Raw ticks since the last throttled tick (R32). -/
  tickCount : BitVec 8
  /-- Silent throttle periods in Run (R33). -/
  watchdogCount : BitVec 8
  /-- The parameters; no operation writes them (R20, R225). -/
  cfg : Config
  /-- The event words the host has yet to deliver, next one first (R73, R175). -/
  inbox : List (BitVec 10)
  /-- Everything handed to the host so far, oldest first (R55, R56, R61). -/
  trace : List Output
  /-- The value returned by the operation executed last. -/
  ret : Ret
  deriving DecidableEq, Repr

/-- Why the core can stop. -/
inductive Fault where
  /-- An access to a buffer cell that does not exist: number `CAPACITY` or more, or the last byte of a message of
  length 0.  Raised by FEED_DATA, CHECKSUM and the report of a table-data message.  R51 says no access falls outside
  the buffer, so no run raises it.  DEDUCED, safe: notes/assumptions/9.md. -/
  | cellOutOfRange
  deriving DecidableEq, Repr

/-- Why the model gives no step. -/
inductive Refusal where
  /-- The instruction has no meaning yet.  Raised by an arm of `exec` only; safe. -/
  | notModelled (mnemonic : String)
  /-- The next event word has reason code 3, which is not an event: "A model refuses an event word" (R91).  Raised by
  `step`; safe. -/
  | reservedReason
  deriving DecidableEq, Repr

/-- The state after power-on reset (R41): the seven registers at their values, nothing handed out.  The buffer's
contents are the model's (notes/assumptions/5.md). -/
def State.reset : State where
  fstate := .idle
  index := 0
  length := 0
  buf := []
  sstate := .idle
  tickCount := 0
  watchdogCount := 0
  cfg := Config.reference
  inbox := []
  trace := []
  ret := .nothing

end Sys2Proof.Machine
end

