-- ==== Sys2Proof/Machine/Ops.lean ====
section
/-! DEFINITION. The named operations over the buffer, the registers and the outputs (00_scope.md R12), taking an
exception and returning from one (60_exceptions.md R190 to R200). -/

namespace Sys2Proof.Machine

/-- The outcome of an operation that changes the state and returns a value. -/
abbrev Res (α : Type) := Host.Outcome (State × α) Fault Refusal

/-- Go on with `f` after an operation that answered. -/
def andThen {σ τ : Type} (o : Host.Outcome σ Fault Refusal) (f : σ → Host.Outcome τ Fault Refusal) :
    Host.Outcome τ Fault Refusal :=
  match o with
  | .next a => f a
  | .fault e => .fault e
  | .refused r => .refused r

/-- An operation executed on its own leaves the value it returned in `ret` (notes/assumptions/4.md). -/
def returning {α : Type} (f : α → Ret) (o : Res α) : Host.Outcome State Fault Refusal :=
  andThen o fun p => .next { p.1 with ret := f p.2 }

/-! ### The frame buffer (R21, R22, R51) -/

/-- `buf[a]`: the byte of a cell; an unlisted cell reads 0x00 (notes/assumptions/5.md). -/
def Memory.read : Memory → Nat → Byte
  | [], _ => 0#8
  | c :: rest, a => if c.1 = a then c.2 else Memory.read rest a

/-- A buffer with one cell unlisted. -/
def Memory.unlist (m : Memory) (a : Nat) : Memory :=
  m.filter fun c => c.1 != a

/-- A buffer with one more cell listed, in its place. -/
def Memory.list (a : Nat) (v : Byte) : Memory → Memory
  | [] => [(a, v)]
  | c :: rest => if c.1 < a then c :: Memory.list a v rest else (a, v) :: c :: rest

/-- `buf[a] <- v`. -/
def Memory.write (m : Memory) (a : Nat) (v : Byte) : Memory :=
  if v = 0#8 then Memory.unlist m a else Memory.list a v (Memory.unlist m a)

/-- Are all the cell numbers of a list above `a`? -/
def Memory.above (a : Nat) : Memory → Bool
  | [] => true
  | c :: rest => decide (a < c.1) && Memory.above a rest

/-- The canonical form: cell numbers strictly rising and below `CAPACITY`, no listed byte 0x00. -/
def Memory.wf : Memory → Bool
  | [] => true
  | c :: rest => decide (c.1 < capacity) && decide (c.2 ≠ 0#8) && Memory.above c.1 rest && Memory.wf rest

/-- `buf[a] <- v` for a cell number the rule gives as below `CAPACITY`. -/
def putCell (a : Nat) (v : Byte) (s : State) : State :=
  { s with buf := Memory.write s.buf a v }

/-- The cells `buf[a]`, `buf[a+1]`, … : `n` of them. -/
def cells (m : Memory) (a : Nat) : Nat → Frame
  | 0 => []
  | n + 1 => Memory.read m a :: cells m (a + 1) n

/-! ### Output actions (R170, R171) -/

/-- Append to what the host has been handed (R61). -/
def emit (o : Output) (s : State) : State :=
  { s with trace := s.trace ++ [o] }

/-- `emit Down(MemRead(ROM, t, len(t)))` (R170). -/
def emitDown (t : Template) (s : State) : State :=
  emit (.down (rom t)) s

/-- `emit Up(chars)` (R171). -/
def emitUp (chars : Text) (s : State) : State :=
  emit (.up chars) s

/-! ### Reset of the Framer, exceptions and returns from them -/

/-- `reset()` (R105): the cursor, the length and the Framer state; the buffer keeps its bytes. -/
def framerReset (s : State) : State :=
  { s with index := 0, length := 0, fstate := .idle }

/-- The causes of a framing error, which nothing outside the Framer can tell apart (R190). -/
inductive FramingCause where
  | badLength
  | badChecksum
  deriving DecidableEq, Repr

/-- The two errors of the core (R190, R191, R192); the exceptions of R3. -/
inductive Exn where
  | framing (cause : FramingCause)
  | liveness
  deriving DecidableEq, Repr

/-- Taking an exception: what `raise` does to the state.  A framing error resets the Framer (R12, R197 (1)); a liveness
failure emits the diagnostic text (R12, R198 (2)).  Nothing is saved; the code of the error is the value the
operation returns. -/
def takeException : Exn → State → State
  | .framing _, s => framerReset s
  | .liveness, s => emitUp s.cfg.diagReport s

/-- The Session's part of the entry on a framing error (R131, R197 (2)). -/
def enterRetry (s : State) : State :=
  { s with sstate := if s.cfg.errPolicy = .retryTableA then .retryTableA else s.sstate }

/-- Return from a framing error (R199), the tick action of RetryTableA (R134). -/
def returnFromRetry (s : State) : State :=
  { emitDown .readTableA s with watchdogCount := 0, sstate := .run }

/-- ForceReinit (R121): the return from a liveness failure (R200) and the one entry into the lifecycle. -/
def forceReinit (s : State) : State :=
  { s with sstate := .wake, tickCount := 0, watchdogCount := 0 }

end Sys2Proof.Machine
end

