-- ==== Sys2Proof/Machine/Operands.lean ====
section
/-! DEFINITION. The operands the operations assemble from the state (30_encoding.md R83): the keys, the message in the
buffer, the checksummed part of it. -/

namespace Sys2Proof.Machine

/-- The Session key of a call (R74). -/
def State.skKey (s : State) (r : Reason) : BitVec 5 := skWord s.sstate r

/-- The Framer key of a byte (R75). -/
def State.fkKey (s : State) (b : Byte) : BitVec 10 := fkWord s.fstate b

/-- The message key: the first four cells (R80). -/
def State.mkKey (s : State) : BitVec 32 :=
  mkWord (Memory.read s.buf 0) (Memory.read s.buf 1) (Memory.read s.buf 2) (Memory.read s.buf 3)

/-- The message handed to the Responder, `buf[0..Lm-1]` with `Lm = buf[1]` (R150); none when that passes the end of
the buffer. -/
def State.message (s : State) : Option Frame :=
  if (Memory.read s.buf 1).toNat ≤ capacity then some (cells s.buf 0 (Memory.read s.buf 1).toNat) else none

/-- `checksum(buf[0..L-2])` (R104, R106); none when a cell it reads does not exist. -/
def bufferChecksum (m : Memory) (l : Nat) : Option Byte :=
  if l - 1 ≤ capacity then some (checksum (cells m 0 (l - 1))) else none

/-- `checksum(buf[0..L-2]) = buf[L-1]` (R104); none when a cell it reads does not exist. -/
def checksumMatches (m : Memory) (l : Nat) : Option Bool :=
  if l = 0 ∨ capacity < l then none
  else some (decide (checksum (cells m 0 (l - 1)) = Memory.read m (l - 1)))

end Sys2Proof.Machine
end

