-- ==== Sys2Proof/Machine/Framer.lean ====
section
/-! DEFINITION. The Framer (40_framer.md): the four arms of `feed`, `reset`, the checksum. -/

namespace Sys2Proof.Machine

/-- FEED_ADDR (R101). -/
def feedAddr (b : Byte) (s : State) : State × FResult :=
  ({ putCell 0 b s with index := 1, fstate := .readingLength }, .none)

/-- FEED_LEN_OK (R102). -/
def feedLenOk (b : Byte) (s : State) : State × FResult :=
  ({ putCell 1 b s with length := b, index := 2, fstate := .readingData }, .none)

/-- FEED_LEN_BAD (R103): the two stores, then the framing error. -/
def feedLenBad (b : Byte) (s : State) : State × FResult :=
  (takeException (.framing .badLength) { putCell 1 b s with length := b }, .err)

/-- The last byte of a message is in (R104, the `else` branch). -/
def completeMessage (s : State) : Res FResult :=
  match checksumMatches s.buf s.length.toNat with
  | none => .fault .cellOutOfRange
  | some true => .next (framerReset s, .ok)
  | some false => .next (takeException (.framing .badChecksum) s, .err)

/-- FEED_DATA (R104). -/
def feedData (b : Byte) (s : State) : Res FResult :=
  if s.index.toNat < capacity then
    let s' := { putCell s.index.toNat b s with index := s.index + 1 }
    if s'.index.toNat < s'.length.toNat then .next (s', .none) else completeMessage s'
  else .fault .cellOutOfRange

/-- `feed(byte)` (R100): the arm is chosen by `fstate`, and in ReadingLength by the byte (R75). -/
def feed (b : Byte) (s : State) : Res FResult :=
  match s.fstate with
  | .idle => .next (feedAddr b s)
  | .readingLength => if legalLength b then .next (feedLenOk b s) else .next (feedLenBad b s)
  | .readingData => feedData b s

/-- FEED_ADDR, executed on its own. -/
def execFeedAddr (b : Byte) (s : State) : Host.Outcome State Fault Refusal :=
  returning .framer (.next (feedAddr b s))

/-- FEED_LEN_OK, executed on its own. -/
def execFeedLenOk (b : Byte) (s : State) : Host.Outcome State Fault Refusal :=
  returning .framer (.next (feedLenOk b s))

/-- FEED_LEN_BAD, executed on its own. -/
def execFeedLenBad (b : Byte) (s : State) : Host.Outcome State Fault Refusal :=
  returning .framer (.next (feedLenBad b s))

/-- FEED_DATA, executed on its own. -/
def execFeedData (b : Byte) (s : State) : Host.Outcome State Fault Refusal :=
  returning .framer (feedData b s)

/-- RESET (R105), executed on its own, as a test of the Framer may (R105, R181). -/
def execReset (s : State) : Host.Outcome State Fault Refusal :=
  .next { framerReset s with ret := .nothing }

/-- CHECKSUM (R106) of `buf[0..L-2]`, `L` the `length` register; returns the byte, changes nothing. -/
def execChecksum (s : State) : Host.Outcome State Fault Refusal :=
  match bufferChecksum s.buf s.length.toNat with
  | some c => .next { s with ret := .byte c }
  | none => .fault .cellOutOfRange

end Sys2Proof.Machine
end

