-- ==== Sys2Proof/Machine/Responder.lean ====
section
/-! DEFINITION. The Responder (42_responder.md): `classify` and its arms.  The key bits an operation carries are copies
of buffer cells; the meanings read the buffer. -/

namespace Sys2Proof.Machine

/-- NON_RESPONSE (R151). -/
def nonResponse (s : State) : State × SState := (s, .run)

/-- RSP_INIT_ACK (R152). -/
def rspInitAck (s : State) : State × SState := (emitDown .readTableA s, .run)

/-- RSP_TABLE_DATA (R153): the report of the whole message, common to every table id. -/
def rspTableData (s : State) : Host.Outcome State Fault Refusal :=
  match s.message with
  | some m => .next (emitUp (report m) s)
  | none => .fault .cellOutOfRange

/-- RSP_TABLE_A (R154, after R153). -/
def rspTableA (s : State) : Res SState :=
  andThen (rspTableData s) fun s' => .next (emitDown .readTableB s', .run)

/-- RSP_TABLE_B (R155, after R153). -/
def rspTableB (s : State) : Res SState :=
  andThen (rspTableData s) fun s' => .next (s', .retryTableA)

/-- RSP_TABLE_OTHER (R156, after R153). -/
def rspTableOther (s : State) : Res SState :=
  andThen (rspTableData s) fun s' => .next (s', .run)

/-- RSP_OTHER (R158). -/
def rspOther (s : State) : State × SState := (s, .run)

/-- `classify()` (R159): the address, then the opcode, then for opcode 0x71 the table id. -/
def classify (s : State) : Res SState :=
  if Memory.read s.buf 0 ≠ responseMarker then .next (nonResponse s)
  else if Memory.read s.buf 2 = opInitAck then .next (rspInitAck s)
  else if Memory.read s.buf 2 = opTableData then
    if Memory.read s.buf 3 = tableA then rspTableA s
    else if Memory.read s.buf 3 = tableB then rspTableB s
    else rspTableOther s
  else .next (rspOther s)

/-- NON_RESPONSE, executed on its own. -/
def execNonResponse (_address _len _opcode _tableId : Byte) (s : State) : Host.Outcome State Fault Refusal :=
  returning .next (.next (nonResponse s))

/-- RSP_INIT_ACK, executed on its own. -/
def execRspInitAck (_len _tableId : Byte) (s : State) : Host.Outcome State Fault Refusal :=
  returning .next (.next (rspInitAck s))

/-- RSP_TABLE_DATA, executed on its own; it returns nothing. -/
def execRspTableData (_len _tableId : Byte) (s : State) : Host.Outcome State Fault Refusal :=
  andThen (rspTableData s) fun s' => .next { s' with ret := .nothing }

/-- RSP_TABLE_A, executed on its own. -/
def execRspTableA (_len : Byte) (s : State) : Host.Outcome State Fault Refusal :=
  returning .next (rspTableA s)

/-- RSP_TABLE_B, executed on its own. -/
def execRspTableB (_len : Byte) (s : State) : Host.Outcome State Fault Refusal :=
  returning .next (rspTableB s)

/-- RSP_TABLE_OTHER, executed on its own. -/
def execRspTableOther (_len _tableId : Byte) (s : State) : Host.Outcome State Fault Refusal :=
  returning .next (rspTableOther s)

/-- RSP_OTHER, executed on its own. -/
def execRspOther (_len _opcode _tableId : Byte) (s : State) : Host.Outcome State Fault Refusal :=
  returning .next (.next (rspOther s))

end Sys2Proof.Machine
end

