-- ==== Sys2Proof/Machine/Session.lean ====
section
/-! DEFINITION. The Session (41_session.md): the throttle, the arm of every state and reason, and `step`. -/

namespace Sys2Proof.Machine

/-- S_THROTTLE (R122): count the tick; below the threshold it is swallowed with `Continue`, at the threshold the count
starts again and the tick goes on to the state's arm (no value). -/
def throttleTick (s : State) : State × Option ContinueSignal :=
  let s' := { s with tickCount := s.tickCount + 1 }
  if s'.tickCount.toNat < s'.cfg.tickThreshold then (s', some .cont) else ({ s' with tickCount := 0 }, none)

/-- S_IDLE_ANY (R124). -/
def idleAny (s : State) : State × ContinueSignal := (s, .cont)

/-- S_LINEBREAK_ANY (R125). -/
def linebreakAny (s : State) : State × ContinueSignal := (s, .cont)

/-- S_WAKE_TICK (R126). -/
def wakeTick (s : State) : State × ContinueSignal :=
  ({ emitDown .wake s with sstate := .init }, .cont)

/-- S_INIT_TICK (R127). -/
def initTick (s : State) : State × ContinueSignal :=
  ({ emitDown .init s with sstate := .run }, .cont)

/-- S_RUN_TICK (R133): the watchdog, saturating at `WATCHDOG_MAX + 1`. -/
def runTick (s : State) : State × ContinueSignal :=
  let s' := if s.watchdogCount.toNat ≤ s.cfg.watchdogMax then { s with watchdogCount := s.watchdogCount + 1 } else s
  if watchdogExpired s'.cfg s'.watchdogCount then (takeException .liveness s', .needsFullReinit) else (s', .cont)

/-- S_RETRY_TICK (R134). -/
def retryTick (s : State) : State × ContinueSignal := (returnFromRetry s, .cont)

/-- S_DROP_BYTE (R135). -/
def dropByte (s : State) : State × ContinueSignal := (s, .cont)

/-- S_RUN_OK (R130). -/
def runOk (s : State) : Res ContinueSignal :=
  andThen (classify s) fun p =>
    .next ({ p.1 with
      sstate := p.2
      watchdogCount := 0
      tickCount := if p.1.cfg.tickResetOnOk then 0 else p.1.tickCount }, .cont)

/-- S_RUN_ERR (R131). -/
def runErr (s : State) : State × ContinueSignal := (enterRetry s, .cont)

/-- S_RUN_NONE (R132). -/
def runNone (s : State) : State × ContinueSignal := (s, .cont)

/-- The arm of a Framer result (R128). -/
def afterFeed : State × FResult → Res ContinueSignal
  | (s, .ok) => runOk s
  | (s, .err) => .next (runErr s)
  | (s, .none) => .next (runNone s)

/-- S_RUN_BYTE (R128). -/
def runByte (b : Byte) (s : State) : Res ContinueSignal :=
  andThen (feed b s) afterFeed

/-- The arm of a Tick that reached the `case` (R123). -/
def tickArm (s : State) : Res ContinueSignal :=
  match s.sstate with
  | .idle => .next (idleAny s)
  | .lineBreak => .next (linebreakAny s)
  | .wake => .next (wakeTick s)
  | .init => .next (initTick s)
  | .run => .next (runTick s)
  | .retryTableA => .next (retryTick s)

/-- The arm of a received byte (R123). -/
def byteArm (b : Byte) (s : State) : Res ContinueSignal :=
  match s.sstate with
  | .idle => .next (idleAny s)
  | .lineBreak => .next (linebreakAny s)
  | .wake => .next (dropByte s)
  | .init => .next (dropByte s)
  | .run => runByte b s
  | .retryTableA => .next (dropByte s)

/-- `step(Tick, _)` (R123): the throttle where the state is throttled, then the arm. -/
def stepTick (s : State) : Res ContinueSignal :=
  if throttled s.cfg.throttleFirst s.sstate then
    match throttleTick s with
    | (s', some c) => .next (s', c)
    | (s', none) => tickArm s'
  else tickArm s

/-- `step(reason, byte)` (R120, R123): ForceReinit first, then the throttle, then the arm of the state. -/
def sessionStep (r : Reason) (b : Byte) (s : State) : Res ContinueSignal :=
  match r with
  | .forceReinit => .next (forceReinit s, .cont)
  | .tick => stepTick s
  | .byteReceived => byteArm b s

/-- S_FORCE_REINIT (R121), executed on its own. -/
def execSForceReinit (_st : SState) (s : State) : Host.Outcome State Fault Refusal :=
  returning .signal (.next (forceReinit s, .cont))

/-- S_THROTTLE (R122), executed on its own; it returns nothing when the tick passes. -/
def execSThrottle (_st : SState) (s : State) : Host.Outcome State Fault Refusal :=
  returning (fun c => match c with | some c => .signal c | none => .nothing) (.next (throttleTick s))

/-- S_IDLE_ANY (R124), executed on its own. -/
def execSIdleAny (_r : Reason) (_ignored : Byte) (s : State) : Host.Outcome State Fault Refusal :=
  returning .signal (.next (idleAny s))

/-- S_LINEBREAK_ANY (R125), executed on its own. -/
def execSLinebreakAny (_r : Reason) (_ignored : Byte) (s : State) : Host.Outcome State Fault Refusal :=
  returning .signal (.next (linebreakAny s))

/-- S_WAKE_TICK (R126), executed on its own. -/
def execSWakeTick (s : State) : Host.Outcome State Fault Refusal :=
  returning .signal (.next (wakeTick s))

/-- S_DROP_BYTE.WAKE (R135), executed on its own. -/
def execSDropByteWake (_ignored : Byte) (s : State) : Host.Outcome State Fault Refusal :=
  returning .signal (.next (dropByte s))

/-- S_INIT_TICK (R127), executed on its own. -/
def execSInitTick (s : State) : Host.Outcome State Fault Refusal :=
  returning .signal (.next (initTick s))

/-- S_DROP_BYTE.INIT (R135), executed on its own. -/
def execSDropByteInit (_ignored : Byte) (s : State) : Host.Outcome State Fault Refusal :=
  returning .signal (.next (dropByte s))

/-- S_RUN_TICK (R133), executed on its own. -/
def execSRunTick (s : State) : Host.Outcome State Fault Refusal :=
  returning .signal (.next (runTick s))

/-- S_RUN_BYTE (R128), executed on its own. -/
def execSRunByte (b : Byte) (s : State) : Host.Outcome State Fault Refusal :=
  returning .signal (runByte b s)

/-- S_RETRY_TICK (R134), executed on its own. -/
def execSRetryTick (s : State) : Host.Outcome State Fault Refusal :=
  returning .signal (.next (retryTick s))

/-- S_DROP_BYTE.RETRY (R135), executed on its own. -/
def execSDropByteRetry (_ignored : Byte) (s : State) : Host.Outcome State Fault Refusal :=
  returning .signal (.next (dropByte s))

/-- S_RUN_OK (R130), executed on its own. -/
def execSRunOk (s : State) : Host.Outcome State Fault Refusal :=
  returning .signal (runOk s)

/-- S_RUN_ERR (R131), executed on its own. -/
def execSRunErr (s : State) : Host.Outcome State Fault Refusal :=
  returning .signal (.next (runErr s))

/-- S_RUN_NONE (R132), executed on its own. -/
def execSRunNone (s : State) : Host.Outcome State Fault Refusal :=
  returning .signal (.next (runNone s))

end Sys2Proof.Machine
end

