-- ==== Sys2Proof/Machine/Events.lean ====
section
/-! DEFINITION. The three events: one whole call of `step` each (30_encoding.md R73, 41_session.md R120). -/

namespace Sys2Proof.Machine

/-- The end of a `step` call: its result is handed to the host (R13, R120). -/
def deliver (o : Res ContinueSignal) : Host.Outcome State Fault Refusal :=
  andThen o fun p => .next { emit (.returned p.2) p.1 with ret := .signal p.2 }

/-- EV_TICK: `step(Tick, _)`. -/
def execEvTick (_ignored : Byte) (s : State) : Host.Outcome State Fault Refusal :=
  deliver (sessionStep .tick 0 s)

/-- EV_BYTE: `step(ByteReceived, byte)`. -/
def execEvByte (b : Byte) (s : State) : Host.Outcome State Fault Refusal :=
  deliver (sessionStep .byteReceived b s)

/-- EV_FORCE_REINIT: `step(ForceReinit, _)`. -/
def execEvForceReinit (_ignored : Byte) (s : State) : Host.Outcome State Fault Refusal :=
  deliver (sessionStep .forceReinit 0 s)

end Sys2Proof.Machine
end

