-- ==== Sys2Proof/Machine/Output.lean ====
section
/-! DEFINITION. The output actions and the characters of a report (43_host_interface.md R170 to R174). -/

namespace Sys2Proof.Machine

/-- SEND_DOWN.WAKE (R170). -/
def execSendDownWake (s : State) : Host.Outcome State Fault Refusal :=
  .next { emitDown .wake s with ret := .nothing }

/-- SEND_DOWN.INIT (R170). -/
def execSendDownInit (s : State) : Host.Outcome State Fault Refusal :=
  .next { emitDown .init s with ret := .nothing }

/-- SEND_DOWN.READ_TABLE_A (R170). -/
def execSendDownReadTableA (s : State) : Host.Outcome State Fault Refusal :=
  .next { emitDown .readTableA s with ret := .nothing }

/-- SEND_DOWN.READ_TABLE_B (R170). -/
def execSendDownReadTableB (s : State) : Host.Outcome State Fault Refusal :=
  .next { emitDown .readTableB s with ret := .nothing }

/-- SEND_UP.REPORT (R171, R172): the report of `m` goes upstream. -/
def execSendUpReport (m : Frame) (s : State) : Host.Outcome State Fault Refusal :=
  .next { emitUp (report m) s with ret := .nothing }

/-- SEND_UP.DIAG (R171, R174): the configured text goes upstream. -/
def execSendUpDiag (s : State) : Host.Outcome State Fault Refusal :=
  .next { emitUp s.cfg.diagReport s with ret := .nothing }

/-- SEND_UP (R171). -/
def execSendUp (chars : Text) (s : State) : Host.Outcome State Fault Refusal :=
  .next { emitUp chars s with ret := .nothing }

/-- HEX2 (R173): returns two characters, changes nothing. -/
def execHex2 (b : Byte) (s : State) : Host.Outcome State Fault Refusal :=
  .next { s with ret := .chars (hex2 b) }

end Sys2Proof.Machine
end

