-- ==== Sys2Proof/Machine/Dispatch.lean ====
section
/-! DEFINITION. The dispatch: one arm per operation. -/

namespace Sys2Proof.Machine

/-- The meaning of an operation. -/
def exec (i : Instr) (s : State) : Host.Outcome State Fault Refusal :=
  match i with
  | .evTick ignored => Sys2Proof.Machine.execEvTick ignored s
  | .evByte byte => Sys2Proof.Machine.execEvByte byte s
  | .evForceReinit ignored => Sys2Proof.Machine.execEvForceReinit ignored s
  | .sForceReinit st => Sys2Proof.Machine.execSForceReinit st s
  | .sThrottle st => Sys2Proof.Machine.execSThrottle st s
  | .sIdleAny r ignored => Sys2Proof.Machine.execSIdleAny r ignored s
  | .sLinebreakAny r ignored => Sys2Proof.Machine.execSLinebreakAny r ignored s
  | .sWakeTick => Sys2Proof.Machine.execSWakeTick s
  | .sDropByteWake ignored => Sys2Proof.Machine.execSDropByteWake ignored s
  | .sInitTick => Sys2Proof.Machine.execSInitTick s
  | .sDropByteInit ignored => Sys2Proof.Machine.execSDropByteInit ignored s
  | .sRunTick => Sys2Proof.Machine.execSRunTick s
  | .sRunByte byte => Sys2Proof.Machine.execSRunByte byte s
  | .sRetryTick => Sys2Proof.Machine.execSRetryTick s
  | .sDropByteRetry ignored => Sys2Proof.Machine.execSDropByteRetry ignored s
  | .sRunOk => Sys2Proof.Machine.execSRunOk s
  | .sRunErr => Sys2Proof.Machine.execSRunErr s
  | .sRunNone => Sys2Proof.Machine.execSRunNone s
  | .feedAddr byte => Sys2Proof.Machine.execFeedAddr byte s
  | .feedLenOk byte => Sys2Proof.Machine.execFeedLenOk byte s
  | .feedLenBad byte => Sys2Proof.Machine.execFeedLenBad byte s
  | .feedData byte => Sys2Proof.Machine.execFeedData byte s
  | .reset => Sys2Proof.Machine.execReset s
  | .checksum => Sys2Proof.Machine.execChecksum s
  | .rspInitAck len tableId => Sys2Proof.Machine.execRspInitAck len tableId s
  | .rspTableData len tableId => Sys2Proof.Machine.execRspTableData len tableId s
  | .rspTableA len => Sys2Proof.Machine.execRspTableA len s
  | .rspTableB len => Sys2Proof.Machine.execRspTableB len s
  | .rspTableOther len tableId => Sys2Proof.Machine.execRspTableOther len tableId s
  | .rspOther len opcode tableId => Sys2Proof.Machine.execRspOther len opcode tableId s
  | .nonResponse address len opcode tableId => Sys2Proof.Machine.execNonResponse address len opcode tableId s
  | .sendDownWake => Sys2Proof.Machine.execSendDownWake s
  | .sendDownInit => Sys2Proof.Machine.execSendDownInit s
  | .sendDownReadTableA => Sys2Proof.Machine.execSendDownReadTableA s
  | .sendDownReadTableB => Sys2Proof.Machine.execSendDownReadTableB s
  | .sendUpReport m => Sys2Proof.Machine.execSendUpReport m s
  | .sendUpDiag => Sys2Proof.Machine.execSendUpDiag s
  | .sendUp chars => Sys2Proof.Machine.execSendUp chars s
  | .hex2 byte => Sys2Proof.Machine.execHex2 byte s

end Sys2Proof.Machine
end

