-- ==== Sys2Proof/Machine/Fetch.lean ====
section
/-! DEFINITION. Taking the next event (43_host_interface.md R175), and placing an operation so that the next step runs
it.  Only the three events are delivered; every other operation is selected by the state and an event (R74, R75, R80),
so placing it sets that state and that event.  DESIGN CHOICE: notes/assumptions/2.md. -/

namespace Sys2Proof.Machine

/-- The next event word, and the state with it taken out of the inbox. -/
def fetch (s : State) : Option (BitVec 10 × State) :=
  match s.inbox with
  | [] => none
  | w :: rest => some (w, { s with inbox := rest })

/-- A state whose next event is `w`. -/
def placeWord (w : BitVec 10) (s : State) : State :=
  { s with inbox := w :: s.inbox }

/-- A state whose next event is a call of `step` with this reason and byte. -/
def placeEvent (r : Reason) (b : Byte) (s : State) : State :=
  placeWord (evWord r b) s

/-- A state in which the next event is a Tick that reaches the arm of `st`: where `st` is throttled, one tick short of
the threshold (R122). -/
def placeTick (st : SState) (s : State) : State :=
  placeEvent .tick 0
    { s with
      sstate := st
      tickCount :=
        if throttled s.cfg.throttleFirst st then BitVec.ofNat 8 (s.cfg.tickThreshold - 1) else s.tickCount }

/-- A state in which the next event is a received byte in Run with the Framer in `f` (R75, R128). -/
def placeFeed (f : FState) (b : Byte) (s : State) : State :=
  placeEvent .byteReceived b { s with sstate := .run, fstate := f }

/-- A state in which the next byte completes a valid message of 5 bytes whose first four cells are these (R80, R104):
the byte is their checksum. -/
def placeMessage (b0 b1 b2 b3 : Byte) (s : State) : State :=
  placeFeed .readingData (checksum [b0, b1, b2, b3])
    { putCell 3 b3 (putCell 2 b2 (putCell 1 b1 (putCell 0 b0 s))) with index := 4, length := 5 }

/-- A state whose next step runs the operation `i`. -/
def placeInstr (i : Instr) (s : State) : State :=
  match i with
  | .evTick b => placeEvent .tick b s
  | .evByte b => placeEvent .byteReceived b s
  | .evForceReinit b => placeEvent .forceReinit b s
  | .sForceReinit st => placeEvent .forceReinit 0 { s with sstate := st }
  | .sThrottle st => placeTick st s
  | .sIdleAny r b => placeEvent r b { s with sstate := .idle }
  | .sLinebreakAny r b => placeEvent r b { s with sstate := .lineBreak }
  | .sWakeTick => placeTick .wake s
  | .sDropByteWake b => placeEvent .byteReceived b { s with sstate := .wake }
  | .sInitTick => placeTick .init s
  | .sDropByteInit b => placeEvent .byteReceived b { s with sstate := .init }
  | .sRunTick => placeTick .run s
  | .sRunByte b => placeEvent .byteReceived b { s with sstate := .run }
  | .sRetryTick => placeTick .retryTableA s
  | .sDropByteRetry b => placeEvent .byteReceived b { s with sstate := .retryTableA }
  | .sRunOk => placeMessage 0x00 0x05 0x00 0x00 s
  | .sRunErr => placeFeed .readingLength 0x00 s
  | .sRunNone => placeFeed .idle 0x00 s
  | .feedAddr b => placeFeed .idle b s
  | .feedLenOk b => placeFeed .readingLength b s
  | .feedLenBad b => placeFeed .readingLength b s
  | .feedData b => placeFeed .readingData b { putCell 1 0x04 s with index := 2, length := 4 }
  | .reset => placeFeed .readingLength 0x00 s
  | .checksum => placeMessage 0x00 0x05 0x00 0x00 s
  | .rspInitAck len tid => placeMessage responseMarker len opInitAck tid s
  | .rspTableData len tid => placeMessage responseMarker len opTableData tid s
  | .rspTableA len => placeMessage responseMarker len opTableData tableA s
  | .rspTableB len => placeMessage responseMarker len opTableData tableB s
  | .rspTableOther len tid => placeMessage responseMarker len opTableData tid s
  | .rspOther len op tid => placeMessage responseMarker len op tid s
  | .nonResponse a len op tid => placeMessage a len op tid s
  | .sendDownWake => placeTick .wake s
  | .sendDownInit => placeTick .init s
  | .sendDownReadTableA => placeTick .retryTableA s
  | .sendDownReadTableB => placeMessage responseMarker 0x05 opTableData tableA s
  | .sendUpReport _ => placeMessage responseMarker 0x05 opTableData 0x22 s
  | .sendUpDiag => placeTick .run { s with watchdogCount := BitVec.ofNat 8 s.cfg.watchdogMax }
  | .sendUp _ => placeMessage responseMarker 0x05 opTableData 0x22 s
  | .hex2 _ => placeMessage responseMarker 0x05 opTableData 0x22 s

/-- `placeInstr` of the operation an opcode-table word selects; a word that selects none is placed as an event word
that is none (R91). -/
def placeTableWord (nbits w : Nat) (s : State) : State :=
  match decodeTableWord nbits w with
  | some i => placeInstr i s
  | none => placeWord 0x300 s

end Sys2Proof.Machine
end

