-- ==== Sys2Proof/Machine/Step.lean ====
section
/-! DEFINITION. One step: one event of the inbox, run to completion (20_memory.md R59, R61). -/

namespace Sys2Proof.Machine

/-- One step.  With no event delivered the core "does nothing and holds all its state" (R209); an event word with
reason code 3 is refused (R91); any other event is one call of `step(reason, byte)`. -/
def step (s : State) : Host.Outcome State Fault Refusal :=
  match fetch s with
  | none => .next s
  | some (w, s') =>
    match decode (.ev w) with
    | .instr i => exec i s'
    | .reject _ => .refused .reservedReason

/-- The state whose next step runs the operation of an opcode-table word (notes/assumptions/2.md). -/
def State.withFetchWord (s : State) (nbits w : Nat) : State :=
  placeTableWord nbits w s

end Sys2Proof.Machine
end

