-- ==== Sys2Proof/Safety.lean ====
section
/-! DEFINITION. What holds between steps (10_state.md R40), what a safe run is, and the Framer run on a byte sequence
on its own (40_framer.md R107, R181). -/

namespace Sys2Proof.Machine

/-- The Framer's part of R40. -/
abbrev State.FramerInv (s : State) : Prop :=
  (s.fstate = .idle → s.index = 0 ∧ s.length = 0) ∧
  (s.fstate = .readingLength → s.index = 1 ∧ s.length = 0) ∧
  (s.fstate = .readingData →
    s.length = Memory.read s.buf 1 ∧ 3 ≤ s.length.toNat ∧ s.length.toNat ≤ 32 ∧
      2 ≤ s.index.toNat ∧ s.index.toNat + 1 ≤ s.length.toNat)

/-- The Session's part of R40. -/
abbrev State.SessionInv (s : State) : Prop :=
  s.tickCount.toNat < s.cfg.tickThreshold ∧ s.watchdogCount.toNat ≤ s.cfg.watchdogMax + 1 ∧ s.sstate ≠ .lineBreak

/-- What holds between any two steps: the parameters are admitted (R9), the buffer is in its canonical form, the
registers are as R40 says, and in RetryTableA the Framer is in Idle (R242). -/
abbrev State.Inv (s : State) : Prop :=
  s.cfg.Admitted ∧ Memory.wf s.buf = true ∧ s.FramerInv ∧ s.SessionInv ∧
    (s.sstate = .retryTableA → s.fstate = .idle)

/-- The core just after power-on (R41), built with the parameters `c` (R225), with a host that will deliver `events`. -/
def State.started (c : Config) (events : List (BitVec 10)) : State :=
  { State.reset with cfg := c, inbox := events }

/-- The states a run reaches, whatever admitted parameters the core is built with and whatever its host delivers. -/
inductive Reachable : State → Prop where
  | started (c : Config) (events : List (BitVec 10)) (h : c.Admitted) : Reachable (State.started c events)
  | next {s t : State} (h : Reachable s) (hs : step s = .next t) : Reachable t

/-- No step of the state ends in a fault (R192: "there are no fatal/unrecoverable states inside the core itself"). -/
abbrev State.Safe (s : State) : Prop := ∀ f : Fault, step s ≠ .fault f

/-- The cell the next byte fed goes to: the number of bytes already held (R22). -/
def State.nextCell (s : State) : Nat :=
  match s.fstate with
  | .idle => 0
  | .readingLength => 1
  | .readingData => s.index.toNat

/-- `feed` on each byte of a sequence in turn, with the results in order (R107). -/
def feedAll : Frame → State → Res (List FResult)
  | [], s => .next (s, [])
  | b :: rest, s =>
    andThen (feed b s) fun p => andThen (feedAll rest p.1) fun q => .next (q.1, p.2 :: q.2)

/-- `step(Tick, _)` so many times (R140). -/
def tickMany : Nat → State → Host.Outcome State Fault Refusal
  | 0, s => .next s
  | n + 1, s => andThen (tickMany n s) (exec (.evTick 0))

/-- A freshly reset Framer (R105): the buffer holds anything. -/
abbrev State.Fresh (s : State) : Prop := s.fstate = .idle ∧ s.index = 0 ∧ s.length = 0

/-- The row of format INT that follows a `feed` on its own, by the result it left (R128). -/
def runFramerResult (t : State) : Host.Outcome State Fault Refusal :=
  match t.ret with
  | .framer .ok => exec .sRunOk t
  | .framer .err => exec .sRunErr t
  | _ => exec .sRunNone t

/-- The event of a reason (R73). -/
def eventOf (r : Reason) (b : Byte) : Instr :=
  match r with
  | .tick => .evTick b
  | .byteReceived => .evByte b
  | .forceReinit => .evForceReinit b

end Sys2Proof.Machine
end

