-- ==== Sys2Proof/Certificates/Slice0/Obligations.lean ====
section
/-! DEFINITION. The statements about the model, for the provers.  Each names the rule or the section of spec/ it
formalises.  An equation `exec i s = .next (s with some fields)` is also the frame of `i`: every field not named, the
buffer among them, is as it was. -/

open Sys2Proof Sys2Proof.Machine

/-! ### Reset, invariants, runs -/

/-- 10_state.md section 11: the six registers that have a reset value; R24 leaves the seventh, the buffer, unspecified
(notes/assumptions/5.md).  The Session's three values are the spec's own decision D7 (notes/assumptions/6.md). -/
def Obligations.PowerOnResetRegisters : Prop :=
  State.reset.fstate = .idle ∧ State.reset.index = 0 ∧ State.reset.length = 0 ∧ State.reset.sstate = .idle ∧
    State.reset.tickCount = 0 ∧ State.reset.watchdogCount = 0 ∧ State.reset.trace = []

/-- R40, R242 at power-on, for every admitted configuration and every host.  The Session's values at power-on are the
spec's decision D7 (notes/assumptions/6.md). -/
def Obligations.PowerOnMeetsInvariant : Prop :=
  ∀ (c : Config) (events : List (BitVec 10)), c.Admitted → (State.started c events).Inv

/-- 10_state.md section 10 (R40), with 70_reset_and_hazards.md section 3 (R242): between any two steps. -/
def Obligations.StepKeepsInvariant : Prop :=
  ∀ s t : State, s.Inv → step s = .next t → t.Inv

/-- 60_exceptions.md section 1, with 10_state.md section 10: in every state that meets the invariant no step ends in a
fault and every event word of a reason other than 3 answers a next state; and so on every run from power-on, under any
admitted parameters and any host.  The runs start from the spec's decision D7 (notes/assumptions/6.md); what the fault
is, is notes/assumptions/9.md. -/
def Obligations.RunsNeverFault : Prop :=
  (∀ s : State, s.Inv → s.Safe ∧
      ∀ (w : BitVec 10) (rest : List (BitVec 10)), s.inbox = w :: rest → w.extractLsb' 8 2 ≠ 3#2 →
        ∃ t, step s = .next t) ∧
    ∀ s : State, Reachable s → s.Inv ∧ s.Safe ∧
      ∀ (w : BitVec 10) (rest : List (BitVec 10)), s.inbox = w :: rest → w.extractLsb' 8 2 ≠ 3#2 →
        ∃ t, step s = .next t

/-! ### Encodings and the step -/

/-- 30_encoding.md sections 2 to 4 and 9, for every operation that has a word; SEND_UP.DIAG for every configured text
that is no report, since one that is reads as a report (R174; notes/assumptions/11.md).  The codes in the words are the
spec's decisions D2 to D4 (notes/assumptions/10.md). -/
def Obligations.DecodeEncodeAgree : Prop :=
  ∀ (c : Config) (i : Instr) (w : OpWord), i.WellFormed c = true → encode c i = some w →
    (i = .sendUpDiag → readReport c.diagReport = none) →
    if i.isStage = true then stageOf c w = some i else decode w = .instr i

/-- 30_encoding.md sections 2 to 4 and 9: a word decodes to a well-formed operation with that word; SEND_UP.DIAG for
the configured text, since its row takes every text that is no report (notes/assumptions/11.md).  A Session key whose
reason carries no byte keeps none.  The codes in the words are the spec's decisions D2 to D4
(notes/assumptions/10.md). -/
def Obligations.EncodeDecodeAgree : Prop :=
  ∀ (c : Config) (i : Instr) (w : OpWord), decode w = .instr i → (i = .sendUpDiag → w = .up c.diagReport) →
    i.WellFormed c = true ∧
      match w with
      | .sk key _ => ∃ b, encode c i = some (.sk key b)
      | w => encode c i = some w

/-- Words of 95_test_vectors.md section 3.5 and of the opcode table decode to the operations they stand for.  The codes
in them are the spec's decisions D2 to D4, the rejected word its decision D19 (notes/assumptions/10.md). -/
def Obligations.SampleWordsDecode : Prop :=
  decode (.ev 0x000) = .instr (.evTick 0) ∧ decode (.ev 0x177) = .instr (.evByte 0x77) ∧
    decode (.ev 0x200) = .instr (.evForceReinit 0) ∧ decode (.ev 0x300) = .reject .reservedReason ∧
    decode (.sk 0x11 0x42) = .instr (.sRunByte 0x42) ∧ decode (.fk 0x121) = .instr (.feedLenBad 0x21) ∧
    decode (.mk 0x02057111) = .instr (.rspTableA 0x05) ∧ decode (.mk 0x020571D1) = .instr (.rspTableB 0x05) ∧
    decode (.mk 0x72057111) = .instr (.nonResponse 0x72 0x05 0x71 0x11) ∧
    decode (.tpl [0x72, 0x05, 0x71, 0xD1, 0x47]) = .instr .sendDownReadTableB

/-- 41_session.md section 1, 20_memory.md section 7: a step takes the next event word out of the inbox and runs the
operation it decodes to; nothing else is added.  That the events stand in an inbox is the model's
(notes/assumptions/2.md). -/
def Obligations.StepRunsDecodedEvent : Prop :=
  ∀ (s : State) (w : BitVec 10) (rest : List (BitVec 10)) (i : Instr),
    s.inbox = w :: rest → decode (.ev w) = .instr i → step s = exec i { s with inbox := rest }

/-- 60_exceptions.md section 11 (nothing happens between two calls) and 30_encoding.md section 7 (reason code 3 is
refused, decision D19).  That an empty inbox is a step is the model's (notes/assumptions/2.md). -/
def Obligations.StepWaitsAndRefusesReservedReason : Prop :=
  (∀ s : State, s.inbox = [] → step s = .next s) ∧
    ∀ (s : State) (b : Byte) (rest : List (BitVec 10)), s.inbox = (3#2 ++ b) :: rest →
      step s = .refused .reservedReason

/-! ### Events -/

/-- R121, as the row and as the event. -/
def Obligations.ForceReinitRestartsLifecycle : Prop :=
  (∀ (st : SState) (s : State), exec (.sForceReinit st) s =
      .next { s with sstate := .wake, tickCount := 0, watchdogCount := 0, ret := .signal .cont }) ∧
    ∀ (b : Byte) (s : State), exec (.evForceReinit b) s =
      .next { s with
        sstate := .wake, tickCount := 0, watchdogCount := 0
        trace := s.trace ++ [.returned .cont], ret := .signal .cont }

/-- 41_session.md section 1, 10_state.md section 12: a Tick always completes, and touches the Session's registers and
the outputs only. -/
def Obligations.TickAlwaysCompletes : Prop :=
  ∀ (b : Byte) (s : State), ∃ (t : State) (c : ContinueSignal), exec (.evTick b) s = .next t ∧
    t = { s with
      sstate := t.sstate, tickCount := t.tickCount, watchdogCount := t.watchdogCount
      trace := t.trace, ret := .signal c }

/-- 41_session.md sections 1 and 4, 10_state.md section 12: from a Framer state of R40 a received byte completes with
`Continue`; in Run it stores one cell, and outside Run it changes nothing.  Outside Run that is R124 for Idle, the spec's
decision D9 for Wake, Init and RetryTableA, and its decision D18 for LineBreak (notes/assumptions/10.md). -/
def Obligations.ReceivedByteCompletes : Prop :=
  ∀ (b : Byte) (s : State), s.FramerInv → ∃ t, exec (.evByte b) s = .next t ∧
    t.ret = .signal .cont ∧ t.FramerInv ∧ t.cfg = s.cfg ∧ t.inbox = s.inbox ∧
    (s.sstate = .run →
      Memory.read t.buf s.nextCell = b ∧ (∀ a, a ≠ s.nextCell → Memory.read t.buf a = Memory.read s.buf a) ∧
        (t.sstate = .run ∨ t.sstate = .retryTableA) ∧
        (t.tickCount = s.tickCount ∨ s.cfg.tickResetOnOk = true ∧ t.tickCount = 0) ∧
        (t.watchdogCount = s.watchdogCount ∨ t.watchdogCount = 0)) ∧
    (s.sstate ≠ .run → t = { s with trace := s.trace ++ [.returned .cont], ret := .signal .cont })

/-- 41_session.md section 4 (R128): the same for the row S_RUN_BYTE on its own. -/
def Obligations.RunByteCompletes : Prop :=
  ∀ (b : Byte) (s : State), s.FramerInv → ∃ t, exec (.sRunByte b) s = .next t ∧
    t.ret = .signal .cont ∧ t.FramerInv ∧ t.cfg = s.cfg ∧ t.inbox = s.inbox ∧
    Memory.read t.buf s.nextCell = b ∧ (∀ a, a ≠ s.nextCell → Memory.read t.buf a = Memory.read s.buf a) ∧
    (t.tickCount = s.tickCount ∨ s.cfg.tickResetOnOk = true ∧ t.tickCount = 0) ∧
    (t.watchdogCount = s.watchdogCount ∨ t.watchdogCount = 0)

/-- 30_encoding.md section 2 (R74), 41_session.md section 1 (R123): a call of `step` runs the row its Session key
selects, after the throttle where the state is throttled, and hands that row's signal to the host. -/
def Obligations.EventRunsItsKeyRow : Prop :=
  ∀ (r : Reason) (b : Byte) (s t : State) (i : Instr),
    (r = .tick → throttled s.cfg.throttleFirst s.sstate = true → s.cfg.tickThreshold ≤ (s.tickCount + 1).toNat) →
    decode (.sk (s.skKey r) b) = .instr i →
    exec i (if r = .tick ∧ throttled s.cfg.throttleFirst s.sstate = true then { s with tickCount := 0 } else s) =
      .next t →
    ∃ c, t.ret = .signal c ∧ exec (eventOf r b) s = .next { t with trace := t.trace ++ [.returned c] }

/-! ### The Session's rows -/

/-- R124. -/
def Obligations.IdleDoesNothing : Prop :=
  (∀ (r : Reason) (b : Byte) (s : State), exec (.sIdleAny r b) s = .next { s with ret := .signal .cont }) ∧
    ∀ (b : Byte) (s : State), s.sstate = .idle →
      exec (.evTick b) s = .next { s with trace := s.trace ++ [.returned .cont], ret := .signal .cont } ∧
      exec (.evByte b) s = .next { s with trace := s.trace ++ [.returned .cont], ret := .signal .cont }

/-- 41_session.md section 4 (R125, which keeps the state by decision D18). -/
def Obligations.LineBreakDoesNothing : Prop :=
  (∀ (r : Reason) (b : Byte) (s : State), exec (.sLinebreakAny r b) s = .next { s with ret := .signal .cont }) ∧
    ∀ (b : Byte) (s : State), s.sstate = .lineBreak →
      exec (.evTick b) s = .next { s with trace := s.trace ++ [.returned .cont], ret := .signal .cont } ∧
      exec (.evByte b) s = .next { s with trace := s.trace ++ [.returned .cont], ret := .signal .cont }

/-- 41_session.md section 4 (R135, the spec's decision D9). -/
def Obligations.BytesOutsideRunAreDropped : Prop :=
  (∀ (b : Byte) (s : State),
      exec (.sDropByteWake b) s = .next { s with ret := .signal .cont } ∧
      exec (.sDropByteInit b) s = .next { s with ret := .signal .cont } ∧
      exec (.sDropByteRetry b) s = .next { s with ret := .signal .cont }) ∧
    ∀ (b : Byte) (s : State), s.sstate = .wake ∨ s.sstate = .init ∨ s.sstate = .retryTableA →
      exec (.evByte b) s = .next { s with trace := s.trace ++ [.returned .cont], ret := .signal .cont }

/-- 41_session.md section 3 (R122; which states are throttled is the parameter of decision D8): a tick below the
threshold is counted and swallowed, the tick that reaches it starts the count again and returns nothing yet. -/
def Obligations.ThrottleCountsTicks : Prop :=
  (∀ (st : SState) (s : State), s.tickCount.toNat + 1 < s.cfg.tickThreshold → s.cfg.tickThreshold ≤ 255 →
      ∃ n : Byte, n.toNat = s.tickCount.toNat + 1 ∧
        exec (.sThrottle st) s = .next { s with tickCount := n, ret := .signal .cont }) ∧
    (∀ (st : SState) (s : State), s.cfg.tickThreshold = s.tickCount.toNat + 1 → s.cfg.tickThreshold ≤ 255 →
      exec (.sThrottle st) s = .next { s with tickCount := 0, ret := .nothing }) ∧
    ∀ (b : Byte) (s : State), throttled s.cfg.throttleFirst s.sstate = true →
      s.tickCount.toNat + 1 < s.cfg.tickThreshold → s.cfg.tickThreshold ≤ 255 →
      ∃ n : Byte, n.toNat = s.tickCount.toNat + 1 ∧
        exec (.evTick b) s =
          .next { s with tickCount := n, trace := s.trace ++ [.returned .cont], ret := .signal .cont }

/-- R126. -/
def Obligations.WakeTickSendsWake : Prop :=
  ∀ s : State, exec .sWakeTick s =
    .next { s with
      sstate := .init, trace := s.trace ++ [.down [0xFE, 0x04, 0xFF, 0xFF]], ret := .signal .cont }

/-- R127. -/
def Obligations.InitTickSendsInit : Prop :=
  ∀ s : State, exec .sInitTick s =
    .next { s with
      sstate := .run, trace := s.trace ++ [.down [0x72, 0x05, 0x00, 0xF0, 0x99]], ret := .signal .cont }

/-- 41_session.md section 4 (R133; what is left behind after an expiry is decision D10, the text decision D11). -/
def Obligations.RunTickCountsSilence : Prop :=
  ∀ s : State, s.cfg.Admitted →
    (s.watchdogCount.toNat < s.cfg.watchdogMax →
      ∃ w : Byte, w.toNat = s.watchdogCount.toNat + 1 ∧
        exec .sRunTick s = .next { s with watchdogCount := w, ret := .signal .cont }) ∧
    (s.cfg.watchdogMax ≤ s.watchdogCount.toNat →
      ∃ w : Byte, w.toNat = max s.watchdogCount.toNat (s.cfg.watchdogMax + 1) ∧
        exec .sRunTick s =
          .next { s with
            watchdogCount := w, trace := s.trace ++ [.up s.cfg.diagReport], ret := .signal .needsFullReinit })

/-- R134. -/
def Obligations.RetryTickRequestsTableA : Prop :=
  ∀ s : State, exec .sRetryTick s =
    .next { s with
      watchdogCount := 0, sstate := .run, trace := s.trace ++ [.down [0x72, 0x05, 0x71, 0x11, 0x07]]
      ret := .signal .cont }

/-- R128: the byte goes to the arm of `feed` that the Framer key selects, and the row of the Framer's result follows. -/
def Obligations.RunByteFeedsTheFramer : Prop :=
  ∀ (b : Byte) (s : State), ∃ i, decode (.fk (s.fkKey b)) = .instr i ∧
    exec (.sRunByte b) s = andThen (exec i s) runFramerResult

/-- 41_session.md section 4 (R130, whose `TICK_RESET_ON_OK` is the parameter of decision D13) and 30_encoding.md
section 4: the Responder's row is the first whose masked key matches, and the Session adopts the state it returns. -/
def Obligations.RunOkAdoptsTheResponder : Prop :=
  ∀ s : State, (Memory.read s.buf 1).toNat ≤ 32 →
    ∃ (t : State) (st : SState), exec (mkClass s.mkKey) s = .next t ∧ t.ret = .next st ∧
      (st = .run ∨ st = .retryTableA) ∧
      exec .sRunOk s =
        .next { t with
          sstate := st, watchdogCount := 0, tickCount := if s.cfg.tickResetOnOk then 0 else s.tickCount
          ret := .signal .cont }

/-- 41_session.md section 4 (R131; `ERR_POLICY` is the parameter of decision D12). -/
def Obligations.RunErrFollowsPolicy : Prop :=
  ∀ s : State,
    (s.cfg.errPolicy = .retryTableA →
      exec .sRunErr s = .next { s with sstate := .retryTableA, ret := .signal .cont }) ∧
    (s.cfg.errPolicy = .stayInRun → exec .sRunErr s = .next { s with ret := .signal .cont })

/-- R132. -/
def Obligations.RunNoneDoesNothing : Prop :=
  ∀ s : State, exec .sRunNone s = .next { s with ret := .signal .cont }

/-! ### The Framer's rows -/

/-- R101. -/
def Obligations.FeedStoresAddress : Prop :=
  ∀ (b : Byte) (s : State), ∃ t, exec (.feedAddr b) s = .next t ∧
    t = { s with buf := t.buf, index := 1, fstate := .readingLength, ret := .framer .none } ∧
    Memory.read t.buf 0 = b ∧ ∀ a, a ≠ 0 → Memory.read t.buf a = Memory.read s.buf a

/-- R102. -/
def Obligations.FeedAcceptsLegalLength : Prop :=
  ∀ (b : Byte) (s : State), 3 ≤ b.toNat → b.toNat ≤ 32 → ∃ t, exec (.feedLenOk b) s = .next t ∧
    t = { s with buf := t.buf, length := b, index := 2, fstate := .readingData, ret := .framer .none } ∧
    Memory.read t.buf 1 = b ∧ ∀ a, a ≠ 1 → Memory.read t.buf a = Memory.read s.buf a

/-- R103. -/
def Obligations.FeedRejectsIllegalLength : Prop :=
  ∀ (b : Byte) (s : State), b.toNat < 3 ∨ 32 < b.toNat → ∃ t, exec (.feedLenBad b) s = .next t ∧
    t = { s with buf := t.buf, length := 0, index := 0, fstate := .idle, ret := .framer .err } ∧
    Memory.read t.buf 1 = b ∧ ∀ a, a ≠ 1 → Memory.read t.buf a = Memory.read s.buf a

/-- R104, on its entry condition `2 <= index <= length - 1`, `length <= CAPACITY`. -/
def Obligations.FeedAppendsAndVerifies : Prop :=
  ∀ (b : Byte) (s : State), 2 ≤ s.index.toNat → s.index.toNat + 1 ≤ s.length.toNat → s.length.toNat ≤ 32 →
    ∃ t, exec (.feedData b) s = .next t ∧
      Memory.read t.buf s.index.toNat = b ∧
      (∀ a, a ≠ s.index.toNat → Memory.read t.buf a = Memory.read s.buf a) ∧
      (s.index.toNat + 1 < s.length.toNat →
        t = { s with buf := t.buf, index := t.index, ret := .framer .none } ∧ t.index.toNat = s.index.toNat + 1) ∧
      (s.index.toNat + 1 = s.length.toNat →
        t = { s with
          buf := t.buf, index := 0, length := 0, fstate := .idle
          ret := .framer (if checksum (cells s.buf 0 (s.length.toNat - 1)) = b then .ok else .err) })

/-- R105. -/
def Obligations.FramerResetKeepsBuffer : Prop :=
  ∀ s : State, exec .reset s = .next { s with index := 0, length := 0, fstate := .idle, ret := .nothing }

/-- 40_framer.md section 4 (R106): the byte returned is the one that makes the sum 0 mod 256; nothing changes.  That the
row on its own takes `L` from the length register is the model's choice (notes/assumptions/10.md). -/
def Obligations.ChecksumRowReturnsNegatedSum : Prop :=
  ∀ s : State, s.length.toNat ≤ 32 → ∃ c : Byte, exec .checksum s = .next { s with ret := .byte c } ∧
    (byteSum (cells s.buf 0 (s.length.toNat - 1)) + c.toNat) % 256 = 0

/-- R106: a message is valid iff its last byte is the checksum of the others, iff all its bytes sum to 0 mod 256. -/
def Obligations.ChecksumIffSumIsZero : Prop :=
  ∀ (m : Frame) (c : Byte), checksum m = c ↔ byteSum (m ++ [c]) % 256 = 0

/-- 40_framer.md section 5 (R107): a sequence of bytes with a legal length byte equal to its number of bytes takes
exactly that many calls; all but the last return `None`, the last the verdict; the bytes are then in the buffer. -/
def Obligations.FramerVerdictOnMessage : Prop :=
  ∀ (a l c : Byte) (p : Frame) (s : State), s.Fresh → l.toNat = p.length + 3 → p.length ≤ 29 →
    ∃ t, feedAll (a :: l :: (p ++ [c])) s =
        .next (t, List.replicate (p.length + 2) .none ++
          [if checksum (a :: l :: p) = c then .ok else .err]) ∧
      t.Fresh ∧ cells t.buf 0 (p.length + 3) = a :: l :: (p ++ [c])

/-- 40_framer.md section 6 (R109, as 90_conflicts.md C4 reads it): the computed checksum byte gives `Ok`, and changing
the address or one payload byte gives `Err`. -/
def Obligations.ChecksumByteDecidesTheVerdict : Prop :=
  ∀ (a l : Byte) (p : Frame) (s : State), s.Fresh → l.toNat = p.length + 3 → p.length ≤ 29 →
    (∃ t, feedAll (a :: l :: (p ++ [checksum (a :: l :: p)])) s =
      .next (t, List.replicate (p.length + 2) .none ++ [.ok])) ∧
    (∀ a' : Byte, a' ≠ a → ∃ t, feedAll (a' :: l :: (p ++ [checksum (a :: l :: p)])) s =
      .next (t, List.replicate (p.length + 2) .none ++ [.err])) ∧
    ∀ (p1 p2 : Frame) (x y : Byte), p = p1 ++ x :: p2 → y ≠ x →
      ∃ t, feedAll (a :: l :: (p1 ++ y :: p2 ++ [checksum (a :: l :: p)])) s =
        .next (t, List.replicate (p.length + 2) .none ++ [.err])

/-- R108: from freshly reset Framers, whatever their buffers and the rest of their states hold. -/
def Obligations.FramerIsDeterministic : Prop :=
  ∀ (bytes : Frame) (s1 s2 : State), s1.Fresh → s2.Fresh →
    ∃ t1 t2 results, feedAll bytes s1 = .next (t1, results) ∧ feedAll bytes s2 = .next (t2, results)

/-! ### The Responder's rows -/

/-- R151, R158. -/
def Obligations.IgnoredMessagesDoNothing : Prop :=
  ∀ (a l o i : Byte) (s : State),
    exec (.nonResponse a l o i) s = .next { s with ret := .next .run } ∧
      exec (.rspOther l o i) s = .next { s with ret := .next .run }

/-- R152. -/
def Obligations.InitAckRequestsTableA : Prop :=
  ∀ (l i : Byte) (s : State), exec (.rspInitAck l i) s =
    .next { s with trace := s.trace ++ [.down [0x72, 0x05, 0x71, 0x11, 0x07]], ret := .next .run }

/-- R153, for a message the buffer holds. -/
def Obligations.TableDataIsReported : Prop :=
  ∀ (l i : Byte) (s : State), (Memory.read s.buf 1).toNat ≤ 32 →
    exec (.rspTableData l i) s =
      .next { s with
        trace := s.trace ++ [.up (report (cells s.buf 0 (Memory.read s.buf 1).toNat))], ret := .nothing }

/-- R154 after R153. -/
def Obligations.TableARequestsTableB : Prop :=
  ∀ (l : Byte) (s : State), (Memory.read s.buf 1).toNat ≤ 32 →
    exec (.rspTableA l) s =
      .next { s with
        trace := s.trace ++ [.up (report (cells s.buf 0 (Memory.read s.buf 1).toNat)),
          .down [0x72, 0x05, 0x71, 0xD1, 0x47]]
        ret := .next .run }

/-- R155 after R153. -/
def Obligations.TableBClosesTheCycle : Prop :=
  ∀ (l : Byte) (s : State), (Memory.read s.buf 1).toNat ≤ 32 →
    exec (.rspTableB l) s =
      .next { s with
        trace := s.trace ++ [.up (report (cells s.buf 0 (Memory.read s.buf 1).toNat))], ret := .next .retryTableA }

/-- 42_responder.md section 2 (R156, the spec's decision D14) after R153. -/
def Obligations.OtherTableIsOnlyReported : Prop :=
  ∀ (l i : Byte) (s : State), (Memory.read s.buf 1).toNat ≤ 32 →
    exec (.rspTableOther l i) s =
      .next { s with
        trace := s.trace ++ [.up (report (cells s.buf 0 (Memory.read s.buf 1).toNat))], ret := .next .run }

/-- R160: the rows of every message key change no register, send only templates, and report only the message. -/
def Obligations.ResponderMutatesNothing : Prop :=
  ∀ (c : Config) (w : BitVec 32) (i : Instr) (s t : State),
    decode (.mk w) = .instr i ∨ stageOf c (.mk w) = some i → exec i s = .next t →
    ∃ new, t = { s with trace := s.trace ++ new, ret := t.ret } ∧
      (∀ f, Output.down f ∈ new → ∃ k, f = rom k) ∧
      ∀ text, Output.up text ∈ new → ∃ m, s.message = some m ∧ text = report m

/-- 42_responder.md section 3 (R157): the one valid message of length 3 with the marker is of class RSP_OTHER whatever
the stale cell holds; nothing goes out.  `TICK_RESET_ON_OK` is the parameter of decision D13. -/
def Obligations.ShortMessageIgnoresStaleCell : Prop :=
  ∀ s : State, Memory.read s.buf 0 = 0x02 → Memory.read s.buf 1 = 0x03 →
    Memory.read s.buf 2 = checksum [0x02, 0x03] →
    exec .sRunOk s =
      .next { s with
        sstate := .run, watchdogCount := 0, tickCount := if s.cfg.tickResetOnOk then 0 else s.tickCount
        ret := .signal .cont }

/-! ### Output actions and their contents -/

/-- R170, with the bytes of R78. -/
def Obligations.SendDownHandsOverTemplates : Prop :=
  ∀ s : State,
    exec .sendDownWake s =
      .next { s with trace := s.trace ++ [.down [0xFE, 0x04, 0xFF, 0xFF]], ret := .nothing } ∧
    exec .sendDownInit s =
      .next { s with trace := s.trace ++ [.down [0x72, 0x05, 0x00, 0xF0, 0x99]], ret := .nothing } ∧
    exec .sendDownReadTableA s =
      .next { s with trace := s.trace ++ [.down [0x72, 0x05, 0x71, 0x11, 0x07]], ret := .nothing } ∧
    exec .sendDownReadTableB s =
      .next { s with trace := s.trace ++ [.down [0x72, 0x05, 0x71, 0xD1, 0x47]], ret := .nothing }

/-- R171, and the report as one of the texts it is used for (R172). -/
def Obligations.SendUpHandsOverTexts : Prop :=
  ∀ s : State,
    (∀ chars : Text, exec (.sendUp chars) s = .next { s with trace := s.trace ++ [.up chars], ret := .nothing }) ∧
    ∀ m : Frame, exec (.sendUpReport m) s = .next { s with trace := s.trace ++ [.up (report m)], ret := .nothing }

/-- 43_host_interface.md section 2 (R174): the diagnostic row hands over the configured text, whatever it is (decision
D11). -/
def Obligations.DiagnosticTextIsHandedOver : Prop :=
  ∀ s : State,
    exec .sendUpDiag s = .next { s with trace := s.trace ++ [.up s.cfg.diagReport], ret := .nothing }

/-- R172: `:`, then the two characters of each byte in message order, `1 + 2*L` characters. -/
def Obligations.ReportIsColonAndDigits : Prop :=
  ∀ m : Frame, (report m).length = 1 + 2 * m.length ∧ (report m)[0]? = some ':' ∧
    ∀ (k : Nat) (b : Byte), m[k]? = some b →
      ∃ x y, hex2 b = [x, y] ∧ (report m)[1 + 2 * k]? = some x ∧ (report m)[2 + 2 * k]? = some y

/-- 43_host_interface.md section 2 (R173, the spec's decision D15): high nibble first, digits `0` to `9`, `A` to `F`. -/
def Obligations.HexDigitsHighNibbleFirst : Prop :=
  ∀ (b : Byte) (s : State), exec (.hex2 b) s = .next { s with ret := .chars (hex2 b) } ∧
    ∃ digits : List Char, digits = ['0', '1', '2', '3', '4', '5', '6', '7', '8', '9', 'A', 'B', 'C', 'D', 'E', 'F'] ∧
      (hex2 b)[0]? = digits[b.toNat / 16]? ∧ (hex2 b)[1]? = digits[b.toNat % 16]? ∧ (hex2 b).length = 2

/-- 30_encoding.md section 3 (R79): each template is a message of the frame format. -/
def Obligations.TemplatesAreValidMessages : Prop :=
  ∀ k : Template, (rom k)[1]? = some (BitVec.ofNat 8 (rom k).length) ∧
    (rom k).getLast? = some (checksum (rom k).dropLast) ∧ byteSum (rom k) % 256 = 0

/-- 41_session.md sections 1 and 5 (R120, R137), 20_memory.md section 7 (R61): one event appends its actions, at most
two and then a report followed by Read-Table-B, and then its signal; earlier outputs stay as they are.  That they stand
in one list with the signals is the model's (notes/assumptions/3.md); the events without an action include those of the
spec's decisions D9 and D18, and those with a report alone that of D14 (notes/assumptions/10.md). -/
def Obligations.EventHandsOverActionsThenSignal : Prop :=
  ∀ (r : Reason) (b : Byte) (s t : State), exec (eventOf r b) s = .next t →
    ∃ (acts : List Output) (c : ContinueSignal), t.trace = s.trace ++ acts ++ [.returned c] ∧ t.ret = .signal c ∧
      (acts = [] ∨ (∃ k, acts = [.down (rom k)]) ∨ (∃ text, acts = [.up text]) ∨
        ∃ m, acts = [.up (report m), .down (rom .readTableB)]) ∧
      (r = .tick → acts.length ≤ 1) ∧ (r = .forceReinit → acts = [])

/-- R55, R56: what a step adds to the two output streams. -/
def Obligations.StreamsHoldTemplatesAndReports : Prop :=
  ∀ s t : State, step s = .next t →
    ∃ new, t.trace = s.trace ++ new ∧
      (∀ f, Output.down f ∈ new → ∃ k, f = rom k) ∧
      ∀ text, Output.up text ∈ new → (∃ m, t.message = some m ∧ text = report m) ∨ text = s.cfg.diagReport

/-! ### Errors -/

/-- 41_session.md section 1, 60_exceptions.md section 1 (R120, R191): the host is asked to intervene exactly when a
throttled tick in Run finds the watchdog at its maximum.  That a further
period reports again is the spec's decision D10; that a byte outside Run only continues is D9, in LineBreak D18
(notes/assumptions/10.md). -/
def Obligations.FullReinitExactlyOnWatchdog : Prop :=
  ∀ (r : Reason) (b : Byte) (s t : State), s.cfg.Admitted → exec (eventOf r b) s = .next t →
    (t.ret = .signal .needsFullReinit ↔
      r = .tick ∧ s.sstate = .run ∧ s.cfg.tickThreshold ≤ (s.tickCount + 1).toNat ∧
        s.cfg.watchdogMax ≤ s.watchdogCount.toNat)

/-- R197: both causes of a framing error, in Run. -/
def Obligations.FramingErrorEntry : Prop :=
  ∀ (b : Byte) (s : State), s.sstate = .run →
    (s.fstate = .readingLength ∧ (b.toNat < 3 ∨ 32 < b.toNat) ∨
      s.fstate = .readingData ∧ 3 ≤ s.length.toNat ∧ s.length.toNat ≤ 32 ∧ s.index.toNat + 1 = s.length.toNat ∧
        checksum (cells s.buf 0 (s.length.toNat - 1)) ≠ b) →
    ∃ t, exec (.evByte b) s = .next t ∧
      t = { s with
        fstate := .idle, index := 0, length := 0, buf := t.buf
        sstate := if s.cfg.errPolicy = .retryTableA then .retryTableA else .run
        trace := s.trace ++ [.returned .cont], ret := .signal .cont } ∧
      Memory.read t.buf s.nextCell = b ∧ ∀ a, a ≠ s.nextCell → Memory.read t.buf a = Memory.read s.buf a

/-- 60_exceptions.md section 4 (R198; that the count stays at its maximum is decision D10). -/
def Obligations.LivenessFailureEntry : Prop :=
  ∀ (b : Byte) (s : State), s.cfg.Admitted → s.sstate = .run → s.tickCount.toNat + 1 = s.cfg.tickThreshold →
    s.cfg.watchdogMax ≤ s.watchdogCount.toNat → s.watchdogCount.toNat ≤ s.cfg.watchdogMax + 1 →
    ∃ w : Byte, w.toNat = s.cfg.watchdogMax + 1 ∧
      exec (.evTick b) s =
        .next { s with
          tickCount := 0, watchdogCount := w
          trace := s.trace ++ [.up s.cfg.diagReport, .returned .needsFullReinit], ret := .signal .needsFullReinit }

/-- 41_session.md section 6 (R140): from a quiet entry into Run, `Continue` on every tick before the last tick of the
period after `WATCHDOG_MAX` periods, and the failure on that one. -/
def Obligations.SilenceExpiresTheWatchdog : Prop :=
  ∀ s : State, s.cfg.Admitted → s.sstate = .run → s.tickCount = 0 → s.watchdogCount = 0 →
    (∀ n, 0 < n → n < s.cfg.tickThreshold * (s.cfg.watchdogMax + 1) →
      ∃ t, tickMany n s = .next t ∧ t.ret = .signal .cont ∧ t.sstate = .run ∧
        t.watchdogCount.toNat = n / s.cfg.tickThreshold ∧ t.tickCount.toNat = n % s.cfg.tickThreshold) ∧
    ∃ t, tickMany (s.cfg.tickThreshold * (s.cfg.watchdogMax + 1)) s = .next t ∧
      t.ret = .signal .needsFullReinit ∧ t.watchdogCount.toNat = s.cfg.watchdogMax + 1

/-! ### Who writes what -/

/-- 10_state.md sections 2 (R22) and 12, 41_session.md section 4: no operation but `feed` writes the buffer; `feed`
writes one cell, numbered by the bytes already held.  That a byte reaches `feed` in Run only is R124 for Idle, the spec's
decision D9 for Wake, Init and RetryTableA, and its decision D18 for LineBreak (notes/assumptions/10.md). -/
def Obligations.OnlyFeedWritesTheBuffer : Prop :=
  ∀ (i : Instr) (s t : State), exec i s = .next t →
    match i with
    | .feedAddr b => ∀ a, Memory.read t.buf a = if a = 0 then b else Memory.read s.buf a
    | .feedLenOk b => ∀ a, Memory.read t.buf a = if a = 1 then b else Memory.read s.buf a
    | .feedLenBad b => ∀ a, Memory.read t.buf a = if a = 1 then b else Memory.read s.buf a
    | .feedData b => ∀ a, Memory.read t.buf a = if a = s.index.toNat then b else Memory.read s.buf a
    | .sRunByte b => ∀ a, Memory.read t.buf a = if a = s.nextCell then b else Memory.read s.buf a
    | .evByte b => ∀ a, Memory.read t.buf a = if s.sstate = .run ∧ a = s.nextCell then b else Memory.read s.buf a
    | _ => t.buf = s.buf

/-- 10_state.md section 3 (R27), section 4 (R28) and section 12 (R42): the Framer's registers change only in `feed`
and `reset`, and `feed` is reached by a byte in Run only: R124 for Idle, the spec's decision D9 for Wake, Init and
RetryTableA, and its decision D18 for LineBreak (notes/assumptions/10.md). -/
def Obligations.FramerRegistersChangeOnlyInFeedAndReset : Prop :=
  ∀ (i : Instr) (s t : State), exec i s = .next t →
    match i with
    | .feedAddr _ | .feedLenOk _ | .feedLenBad _ | .feedData _ | .reset | .sRunByte _ => True
    | .evByte _ => s.sstate = .run ∨ t.fstate = s.fstate ∧ t.index = s.index ∧ t.length = s.length
    | _ => t.fstate = s.fstate ∧ t.index = s.index ∧ t.length = s.length

/-- 10_state.md section 12 (R42): the Framer's, the Responder's and the output rows write no Session register.  That no
row enters LineBreak is the spec's decision D18 (notes/assumptions/10.md). -/
def Obligations.SessionRegistersChangeOnlyInSession : Prop :=
  ∀ (i : Instr) (s t : State), exec i s = .next t →
    match i with
    | .feedAddr _ | .feedLenOk _ | .feedLenBad _ | .feedData _ | .reset | .checksum | .rspInitAck _ _
    | .rspTableData _ _ | .rspTableA _ | .rspTableB _ | .rspTableOther _ _ | .rspOther _ _ _
    | .nonResponse _ _ _ _ | .sendDownWake | .sendDownInit | .sendDownReadTableA | .sendDownReadTableB
    | .sendUpReport _ | .sendUpDiag | .sendUp _ | .hex2 _ =>
      t.sstate = s.sstate ∧ t.tickCount = s.tickCount ∧ t.watchdogCount = s.watchdogCount
    | _ => t.sstate ≠ .lineBreak ∨ s.sstate = .lineBreak

/-- 10_state.md section 1, 70_reset_and_hazards.md section 2 (R20, R225): the parameters are written by no operation;
nor is the host's side of the inbox, which is the model's own (notes/assumptions/2.md). -/
def Obligations.ParametersNeverChange : Prop :=
  (∀ (i : Instr) (s t : State), exec i s = .next t → t.cfg = s.cfg ∧ t.inbox = s.inbox) ∧
    ∀ s t : State, step s = .next t → t.cfg = s.cfg ∧ t.inbox = s.inbox.tail
end

