-- ==== Sys2Proof/Laws/Encoding.lean ====
section
/-! SUPPORT. The fields of the words, the codes, and the characters of a report. -/

namespace Sys2Proof

@[simp] theorem Reason.ofCode_code (r : Reason) : Reason.ofCode r.code = some r := by cases r <;> rfl

@[simp] theorem FState.ofCode_code (f : FState) : FState.ofCode f.code = some f := by cases f <;> rfl

@[simp] theorem SState.ofCode_code (st : SState) : SState.ofCode st.code = some st := by cases st <;> rfl

/-- The high field of two fields put together. -/
theorem extract_hi {n m : Nat} (x : BitVec n) (y : BitVec m) : (x ++ y).extractLsb' m n = x := by
  apply BitVec.eq_of_getLsbD_eq
  intro i hi
  simp [BitVec.getLsbD_append, hi]

/-- The low field of two fields put together. -/
theorem extract_lo {n m : Nat} (x : BitVec n) (y : BitVec m) : (x ++ y).extractLsb' 0 m = y := by
  apply BitVec.eq_of_getLsbD_eq
  intro i hi
  simp [BitVec.getLsbD_append, hi]

@[simp] theorem evWord_reason (r : Reason) (b : Byte) : (evWord r b).extractLsb' 8 2 = r.code := extract_hi _ _

@[simp] theorem evWord_byte (r : Reason) (b : Byte) : (evWord r b).extractLsb' 0 8 = b := extract_lo _ _

@[simp] theorem fkWord_fstate (f : FState) (b : Byte) : (fkWord f b).extractLsb' 8 2 = f.code := extract_hi _ _

@[simp] theorem fkWord_byte (f : FState) (b : Byte) : (fkWord f b).extractLsb' 0 8 = b := extract_lo _ _

@[simp] theorem skWord_sstate (st : SState) (r : Reason) : (skWord st r).extractLsb' 2 3 = st.code := extract_hi _ _

@[simp] theorem skWord_reason (st : SState) (r : Reason) : (skWord st r).extractLsb' 0 2 = r.code := extract_lo _ _

/-- The bytes of a message key. -/
theorem mkWord_bytes (b0 b1 b2 b3 : Byte) :
    (mkWord b0 b1 b2 b3).extractLsb' 24 8 = b0 ∧ (mkWord b0 b1 b2 b3).extractLsb' 16 8 = b1 ∧
      (mkWord b0 b1 b2 b3).extractLsb' 8 8 = b2 ∧ (mkWord b0 b1 b2 b3).extractLsb' 0 8 = b3 := by
  refine ⟨?_, ?_, ?_, ?_⟩ <;>
  · apply BitVec.eq_of_getLsbD_eq
    intro i hi
    simp only [mkWord, BitVec.getLsbD_extractLsb', BitVec.getLsbD_append, hi, decide_true, Bool.true_and]
    split_ifs <;> first | omega | (congr 1; omega)

/-- Two message keys are equal when their bytes are. -/
theorem mkWord_inj {a0 a1 a2 a3 b0 b1 b2 b3 : Byte} :
    mkWord a0 a1 a2 a3 = mkWord b0 b1 b2 b3 ↔ a0 = b0 ∧ a1 = b1 ∧ a2 = b2 ∧ a3 = b3 := by
  constructor
  · intro h
    obtain ⟨x0, x1, x2, x3⟩ := mkWord_bytes a0 a1 a2 a3
    obtain ⟨y0, y1, y2, y3⟩ := mkWord_bytes b0 b1 b2 b3
    rw [h] at x0 x1 x2 x3
    exact ⟨x0.symm.trans y0, x1.symm.trans y1, x2.symm.trans y2, x3.symm.trans y3⟩
  · rintro ⟨rfl, rfl, rfl, rfl⟩; rfl

/-- A mask acts on each byte of a message key. -/
theorem mkWord_and (a0 a1 a2 a3 b0 b1 b2 b3 : Byte) :
    mkWord a0 a1 a2 a3 &&& mkWord b0 b1 b2 b3 = mkWord (a0 &&& b0) (a1 &&& b1) (a2 &&& b2) (a3 &&& b3) := by
  apply BitVec.eq_of_getLsbD_eq
  intro i hi
  simp only [mkWord, BitVec.getLsbD_and, BitVec.getLsbD_append]
  split_ifs <;> rfl

/-- Every word is the message key of its bytes. -/
theorem mkWord_of_bytes (w : BitVec 32) :
    mkWord (w.extractLsb' 24 8) (w.extractLsb' 16 8) (w.extractLsb' 8 8) (w.extractLsb' 0 8) = w := by
  apply BitVec.eq_of_getLsbD_eq
  intro i hi
  simp only [mkWord, BitVec.getLsbD_append, BitVec.getLsbD_extractLsb']
  split_ifs
  all_goals
    rw [decide_eq_true (by omega), Bool.true_and]
    congr 1
    omega

/-- The masks and matches of R80, as message keys. -/
theorem mkWord_literals :
    (0xFF00FF00#32 = mkWord 0xFF#8 0#8 0xFF#8 0#8) ∧ (0xFF00FFFF#32 = mkWord 0xFF#8 0#8 0xFF#8 0xFF#8) ∧
      (0xFF000000#32 = mkWord 0xFF#8 0#8 0#8 0#8) ∧ (0x02000000#32 = mkWord 2#8 0#8 0#8 0#8) ∧
      (0x02007111#32 = mkWord 2#8 0#8 0x71#8 0x11#8) ∧ (0x020071D1#32 = mkWord 2#8 0#8 0x71#8 0xD1#8) ∧
      (0x02007100#32 = mkWord 2#8 0#8 0x71#8 0#8) := ⟨rfl, rfl, rfl, rfl, rfl, rfl, rfl⟩

/-- A byte under the full mask is itself. -/
theorem byte_and_full (b : Byte) : b &&& 0xFF#8 = b := BitVec.and_allOnes

/-- The class of a message key by its bytes: the address, the opcode, the table id (R80, R159). -/
theorem mkClass_mkWord (b0 b1 b2 b3 : Byte) :
    mkClass (mkWord b0 b1 b2 b3) =
      if b0 ≠ responseMarker then .nonResponse b0 b1 b2 b3
      else if b2 = opInitAck then .rspInitAck b1 b3
      else if b2 = opTableData then
        if b3 = tableA then .rspTableA b1 else if b3 = tableB then .rspTableB b1 else .rspTableOther b1 b3
      else .rspOther b1 b2 b3 := by
  obtain ⟨m1, m2, m3, c1, c2, c3, c4⟩ := mkWord_literals
  obtain ⟨e0, e1, e2, e3⟩ := mkWord_bytes b0 b1 b2 b3
  simp only [mkClass, m1, m2, m3, c1, c2, c3, c4, mkWord_and, mkWord_inj, byte_and_full, BitVec.and_zero, e0, e1, e2,
    e3, true_and, and_true]
  split_ifs <;> simp_all

/-- The table-data stage runs for a message key with the marker and opcode 0x71 (R80, R94). -/
theorem stageOf_mkWord (c : Config) (b0 b1 b2 b3 : Byte) :
    stageOf c (.mk (mkWord b0 b1 b2 b3)) =
      if b0 = responseMarker ∧ b2 = opTableData then some (.rspTableData b1 b3) else none := by
  obtain ⟨m1, m2, m3, c1, c2, c3, c4⟩ := mkWord_literals
  obtain ⟨e0, e1, e2, e3⟩ := mkWord_bytes b0 b1 b2 b3
  simp only [stageOf, m1, c4, mkWord_and, mkWord_inj, byte_and_full, BitVec.and_zero, e1, e3, true_and, and_true]
  rfl

/-- A hexadecimal digit has its value. -/
theorem hexValue_hexDigit {n : Nat} (h : n < 16) : hexValue (hexDigit n) = some n := by
  interval_cases n <;> decide

/-- A report is read back as its message. -/
theorem readHexText_hexText (m : Frame) : readHexText (hexText m) = some m := by
  induction m with
  | nil => rfl
  | cons b rest ih =>
    have hb : b.toNat < 256 := b.isLt
    have h1 : hexValue (hexDigit (b.toNat / 16)) = some (b.toNat / 16) := hexValue_hexDigit (by omega)
    have h2 : hexValue (hexDigit (b.toNat % 16)) = some (b.toNat % 16) := hexValue_hexDigit (by omega)
    have h3 : 16 * (b.toNat / 16) + b.toNat % 16 = b.toNat := Nat.div_add_mod _ _
    simp [hexText, hex2, readHexText, h1, h2, ih, h3]

end Sys2Proof
end

