-- ==== Sys2Proof/Laws/State.lean ====
section
/-! SUPPORT. The fields of the state after each named update, and the outcome combinators. -/

namespace Sys2Proof.Machine

/-! ### Outcomes -/

@[simp] theorem andThen_next {σ τ : Type} (a : σ) (f : σ → Host.Outcome τ Fault Refusal) :
    andThen (.next a) f = f a := rfl

@[simp] theorem andThen_fault {σ τ : Type} (e : Fault) (f : σ → Host.Outcome τ Fault Refusal) :
    andThen (.fault e) f = .fault e := rfl

@[simp] theorem andThen_refused {σ τ : Type} (r : Refusal) (f : σ → Host.Outcome τ Fault Refusal) :
    andThen (.refused r) f = .refused r := rfl

/-- A sequence answers a next state only through its two parts. -/
theorem andThen_eq_next {σ τ : Type} {o : Host.Outcome σ Fault Refusal} {f : σ → Host.Outcome τ Fault Refusal} {t : τ} :
    andThen o f = .next t ↔ ∃ a, o = .next a ∧ f a = .next t := by
  cases o <;> simp

/-- A sequence faults when its first part does, or its second after it. -/
theorem andThen_eq_fault {σ τ : Type} {o : Host.Outcome σ Fault Refusal} {f : σ → Host.Outcome τ Fault Refusal}
    {e : Fault} : andThen o f = .fault e ↔ o = .fault e ∨ ∃ a, o = .next a ∧ f a = .fault e := by
  cases o <;> simp

@[simp] theorem returning_next {α : Type} (f : α → Ret) (s : State) (a : α) :
    returning f (.next (s, a)) = .next { s with ret := f a } := rfl

@[simp] theorem returning_fault {α : Type} (f : α → Ret) (e : Fault) :
    returning f (.fault e : Res α) = .fault e := rfl

/-- An operation on its own answers a next state exactly when it answers, and leaves its value in `ret`. -/
theorem returning_eq_next {α : Type} {f : α → Ret} {o : Res α} {t : State} :
    returning f o = .next t ↔ ∃ s a, o = .next (s, a) ∧ t = { s with ret := f a } := by
  rcases o with ⟨s, a⟩ | e | r
  · simp only [returning_next, Host.Outcome.next.injEq, Prod.mk.injEq]
    constructor
    · rintro rfl; exact ⟨s, a, ⟨rfl, rfl⟩, rfl⟩
    · rintro ⟨_, _, ⟨rfl, rfl⟩, rfl⟩; rfl
  all_goals simp [returning]

@[simp] theorem deliver_next (s : State) (c : ContinueSignal) :
    deliver (.next (s, c)) = .next { s with trace := s.trace ++ [.returned c], ret := .signal c } := rfl

@[simp] theorem deliver_fault (e : Fault) : deliver (.fault e) = .fault e := rfl

/-- A call of `step` answers a next state exactly when the Session's step answers. -/
theorem deliver_eq_next {o : Res ContinueSignal} {t : State} :
    deliver o = .next t ↔
      ∃ s c, o = .next (s, c) ∧ t = { s with trace := s.trace ++ [.returned c], ret := .signal c } := by
  rcases o with ⟨s, c⟩ | e | r
  · simp only [deliver_next, Host.Outcome.next.injEq, Prod.mk.injEq]
    constructor
    · rintro rfl; exact ⟨s, c, ⟨rfl, rfl⟩, rfl⟩
    · rintro ⟨_, _, ⟨rfl, rfl⟩, rfl⟩; rfl
  all_goals simp [deliver]

/-! ### Updates -/

@[simp] theorem emitDown_eq (t : Template) (s : State) : emitDown t s = emit (.down (rom t)) s := rfl

@[simp] theorem emitUp_eq (t : Text) (s : State) : emitUp t s = emit (.up t) s := rfl

@[simp] theorem takeException_framing (c : FramingCause) (s : State) :
    takeException (.framing c) s = framerReset s := rfl

@[simp] theorem takeException_liveness (s : State) :
    takeException .liveness s = emit (.up s.cfg.diagReport) s := rfl

@[simp] theorem emit_fstate (o : Output) (s : State) : (emit o s).fstate = s.fstate := rfl

@[simp] theorem emit_index (o : Output) (s : State) : (emit o s).index = s.index := rfl

@[simp] theorem emit_length (o : Output) (s : State) : (emit o s).length = s.length := rfl

@[simp] theorem emit_buf (o : Output) (s : State) : (emit o s).buf = s.buf := rfl

@[simp] theorem emit_sstate (o : Output) (s : State) : (emit o s).sstate = s.sstate := rfl

@[simp] theorem emit_tickCount (o : Output) (s : State) : (emit o s).tickCount = s.tickCount := rfl

@[simp] theorem emit_watchdogCount (o : Output) (s : State) : (emit o s).watchdogCount = s.watchdogCount := rfl

@[simp] theorem emit_cfg (o : Output) (s : State) : (emit o s).cfg = s.cfg := rfl

@[simp] theorem emit_inbox (o : Output) (s : State) : (emit o s).inbox = s.inbox := rfl

@[simp] theorem emit_trace (o : Output) (s : State) : (emit o s).trace = s.trace ++ [o] := rfl

@[simp] theorem emit_ret (o : Output) (s : State) : (emit o s).ret = s.ret := rfl

@[simp] theorem putCell_fstate (a : Nat) (v : Byte) (s : State) : (putCell a v s).fstate = s.fstate := rfl

@[simp] theorem putCell_index (a : Nat) (v : Byte) (s : State) : (putCell a v s).index = s.index := rfl

@[simp] theorem putCell_length (a : Nat) (v : Byte) (s : State) : (putCell a v s).length = s.length := rfl

@[simp] theorem putCell_buf (a : Nat) (v : Byte) (s : State) : (putCell a v s).buf = Memory.write s.buf a v := rfl

@[simp] theorem putCell_sstate (a : Nat) (v : Byte) (s : State) : (putCell a v s).sstate = s.sstate := rfl

@[simp] theorem putCell_tickCount (a : Nat) (v : Byte) (s : State) : (putCell a v s).tickCount = s.tickCount := rfl

@[simp] theorem putCell_watchdogCount (a : Nat) (v : Byte) (s : State) : (putCell a v s).watchdogCount = s.watchdogCount := rfl

@[simp] theorem putCell_cfg (a : Nat) (v : Byte) (s : State) : (putCell a v s).cfg = s.cfg := rfl

@[simp] theorem putCell_inbox (a : Nat) (v : Byte) (s : State) : (putCell a v s).inbox = s.inbox := rfl

@[simp] theorem putCell_trace (a : Nat) (v : Byte) (s : State) : (putCell a v s).trace = s.trace := rfl

@[simp] theorem putCell_ret (a : Nat) (v : Byte) (s : State) : (putCell a v s).ret = s.ret := rfl

@[simp] theorem framerReset_fstate (s : State) : (framerReset s).fstate = .idle := rfl

@[simp] theorem framerReset_index (s : State) : (framerReset s).index = 0 := rfl

@[simp] theorem framerReset_length (s : State) : (framerReset s).length = 0 := rfl

@[simp] theorem framerReset_buf (s : State) : (framerReset s).buf = s.buf := rfl

@[simp] theorem framerReset_sstate (s : State) : (framerReset s).sstate = s.sstate := rfl

@[simp] theorem framerReset_tickCount (s : State) : (framerReset s).tickCount = s.tickCount := rfl

@[simp] theorem framerReset_watchdogCount (s : State) : (framerReset s).watchdogCount = s.watchdogCount := rfl

@[simp] theorem framerReset_cfg (s : State) : (framerReset s).cfg = s.cfg := rfl

@[simp] theorem framerReset_inbox (s : State) : (framerReset s).inbox = s.inbox := rfl

@[simp] theorem framerReset_trace (s : State) : (framerReset s).trace = s.trace := rfl

@[simp] theorem framerReset_ret (s : State) : (framerReset s).ret = s.ret := rfl

@[simp] theorem forceReinit_fstate (s : State) : (forceReinit s).fstate = s.fstate := rfl

@[simp] theorem forceReinit_index (s : State) : (forceReinit s).index = s.index := rfl

@[simp] theorem forceReinit_length (s : State) : (forceReinit s).length = s.length := rfl

@[simp] theorem forceReinit_buf (s : State) : (forceReinit s).buf = s.buf := rfl

@[simp] theorem forceReinit_sstate (s : State) : (forceReinit s).sstate = .wake := rfl

@[simp] theorem forceReinit_tickCount (s : State) : (forceReinit s).tickCount = 0 := rfl

@[simp] theorem forceReinit_watchdogCount (s : State) : (forceReinit s).watchdogCount = 0 := rfl

@[simp] theorem forceReinit_cfg (s : State) : (forceReinit s).cfg = s.cfg := rfl

@[simp] theorem forceReinit_inbox (s : State) : (forceReinit s).inbox = s.inbox := rfl

@[simp] theorem forceReinit_trace (s : State) : (forceReinit s).trace = s.trace := rfl

@[simp] theorem forceReinit_ret (s : State) : (forceReinit s).ret = s.ret := rfl

@[simp] theorem returnFromRetry_fstate (s : State) : (returnFromRetry s).fstate = s.fstate := rfl

@[simp] theorem returnFromRetry_index (s : State) : (returnFromRetry s).index = s.index := rfl

@[simp] theorem returnFromRetry_length (s : State) : (returnFromRetry s).length = s.length := rfl

@[simp] theorem returnFromRetry_buf (s : State) : (returnFromRetry s).buf = s.buf := rfl

@[simp] theorem returnFromRetry_sstate (s : State) : (returnFromRetry s).sstate = .run := rfl

@[simp] theorem returnFromRetry_tickCount (s : State) : (returnFromRetry s).tickCount = s.tickCount := rfl

@[simp] theorem returnFromRetry_watchdogCount (s : State) : (returnFromRetry s).watchdogCount = 0 := rfl

@[simp] theorem returnFromRetry_cfg (s : State) : (returnFromRetry s).cfg = s.cfg := rfl

@[simp] theorem returnFromRetry_inbox (s : State) : (returnFromRetry s).inbox = s.inbox := rfl

@[simp] theorem returnFromRetry_trace (s : State) : (returnFromRetry s).trace = s.trace ++ [.down (rom .readTableA)] := rfl

@[simp] theorem returnFromRetry_ret (s : State) : (returnFromRetry s).ret = s.ret := rfl

@[simp] theorem enterRetry_fstate (s : State) : (enterRetry s).fstate = s.fstate := rfl

@[simp] theorem enterRetry_index (s : State) : (enterRetry s).index = s.index := rfl

@[simp] theorem enterRetry_length (s : State) : (enterRetry s).length = s.length := rfl

@[simp] theorem enterRetry_buf (s : State) : (enterRetry s).buf = s.buf := rfl

@[simp] theorem enterRetry_sstate (s : State) :
    (enterRetry s).sstate = if s.cfg.errPolicy = .retryTableA then .retryTableA else s.sstate := rfl

@[simp] theorem enterRetry_tickCount (s : State) : (enterRetry s).tickCount = s.tickCount := rfl

@[simp] theorem enterRetry_watchdogCount (s : State) : (enterRetry s).watchdogCount = s.watchdogCount := rfl

@[simp] theorem enterRetry_cfg (s : State) : (enterRetry s).cfg = s.cfg := rfl

@[simp] theorem enterRetry_inbox (s : State) : (enterRetry s).inbox = s.inbox := rfl

@[simp] theorem enterRetry_trace (s : State) : (enterRetry s).trace = s.trace := rfl

@[simp] theorem enterRetry_ret (s : State) : (enterRetry s).ret = s.ret := rfl

end Sys2Proof.Machine
end

