-- ==== Sys2Proof/Laws/Memory.lean ====
section
/-! SUPPORT. The laws of the frame buffer: a read after a write, and the canonical form. -/

namespace Sys2Proof.Machine

@[simp] theorem Memory.read_nil (a : Nat) : Memory.read [] a = 0#8 := rfl

theorem Memory.read_unlist_same (m : Memory) (a : Nat) : Memory.read (Memory.unlist m a) a = 0#8 := by
  induction m with
  | nil => rfl
  | cons c rest ih =>
    by_cases h : c.1 = a
    · simpa [Memory.unlist, h] using ih
    · simpa [Memory.unlist, Memory.read, h] using ih

theorem Memory.read_unlist_other {a b : Nat} (m : Memory) (h : b ≠ a) :
    Memory.read (Memory.unlist m a) b = Memory.read m b := by
  induction m with
  | nil => rfl
  | cons c rest ih =>
    by_cases hc : c.1 = a
    · have : c.1 ≠ b := fun e => h (e ▸ hc)
      simpa [Memory.unlist, Memory.read, hc, h.symm] using ih
    · simp only [Memory.unlist] at ih
      by_cases hb : c.1 = b
      · subst hb; simp [Memory.unlist, Memory.read, h]
      · simp [Memory.unlist, Memory.read, hc, hb, ih]

theorem Memory.read_list_same (m : Memory) (a : Nat) (v : Byte) : Memory.read (Memory.list a v m) a = v := by
  induction m with
  | nil => simp [Memory.list, Memory.read]
  | cons c rest ih =>
    by_cases h : c.1 < a
    · simp [Memory.list, Memory.read, h, Nat.ne_of_lt h, ih]
    · simp [Memory.list, Memory.read, h]

theorem Memory.read_list_other {a b : Nat} (m : Memory) (v : Byte) (h : b ≠ a) :
    Memory.read (Memory.list a v m) b = Memory.read m b := by
  induction m with
  | nil => simp [Memory.list, Memory.read, h.symm]
  | cons c rest ih =>
    by_cases hc : c.1 < a
    · by_cases hb : c.1 = b
      · subst hb; simp [Memory.list, Memory.read, hc]
      · simp [Memory.list, Memory.read, hc, hb, ih]
    · simp [Memory.list, Memory.read, hc, h.symm]

/-- A cell reads what was written to it. -/
@[simp] theorem Memory.read_write_same (m : Memory) (a : Nat) (v : Byte) :
    Memory.read (Memory.write m a v) a = v := by
  unfold Memory.write
  split
  · simp [Memory.read_unlist_same, *]
  · exact Memory.read_list_same _ _ _

/-- A write leaves every other cell alone. -/
theorem Memory.read_write_other {a b : Nat} (m : Memory) (v : Byte) (h : b ≠ a) :
    Memory.read (Memory.write m a v) b = Memory.read m b := by
  unfold Memory.write
  split
  · exact Memory.read_unlist_other m h
  · rw [Memory.read_list_other _ v h, Memory.read_unlist_other m h]

/-- Reading any cell after a write. -/
theorem Memory.read_write (m : Memory) (a b : Nat) (v : Byte) :
    Memory.read (Memory.write m a v) b = if b = a then v else Memory.read m b := by
  split
  · subst b; exact Memory.read_write_same m a v
  · exact Memory.read_write_other m v ‹_›

theorem Memory.above_unlist {b : Nat} (m : Memory) (a : Nat) (h : Memory.above b m = true) :
    Memory.above b (Memory.unlist m a) = true := by
  induction m with
  | nil => rfl
  | cons c rest ih =>
    simp only [Memory.above, Bool.and_eq_true, decide_eq_true_eq] at h
    by_cases hc : c.1 = a
    · simpa [Memory.unlist, hc] using ih h.2
    · simpa [Memory.unlist, hc, Memory.above, h.1] using ih h.2

theorem Memory.above_list {a b : Nat} (m : Memory) (v : Byte) (hab : b < a) (h : Memory.above b m = true) :
    Memory.above b (Memory.list a v m) = true := by
  induction m with
  | nil => simp [Memory.list, Memory.above, hab]
  | cons c rest ih =>
    simp only [Memory.above, Bool.and_eq_true, decide_eq_true_eq] at h
    by_cases hc : c.1 < a
    · simp [Memory.list, Memory.above, hc, h.1, ih h.2]
    · simp [Memory.list, Memory.above, hc, h.1, h.2, hab]

theorem Memory.above_of_le {a b : Nat} (m : Memory) (hab : a ≤ b) (h : Memory.above b m = true) :
    Memory.above a m = true := by
  induction m with
  | nil => rfl
  | cons c rest ih =>
    simp only [Memory.above, Bool.and_eq_true, decide_eq_true_eq] at h ⊢
    exact ⟨by omega, ih h.2⟩

theorem Memory.wf_unlist (m : Memory) (a : Nat) (h : Memory.wf m = true) :
    Memory.wf (Memory.unlist m a) = true := by
  induction m with
  | nil => rfl
  | cons c rest ih =>
    simp only [Memory.wf, Bool.and_eq_true, decide_eq_true_eq] at h
    by_cases hc : c.1 = a
    · simpa [Memory.unlist, hc] using ih h.2
    · have hab := Memory.above_unlist rest a h.1.2
      have hr := ih h.2
      simp only [Memory.unlist] at hab hr
      simp [Memory.unlist, hc, Memory.wf, h.1.1.1, h.1.1.2, hab, hr]

theorem Memory.wf_list (m : Memory) (a : Nat) (v : Byte) (ha : a < capacity) (hv : v ≠ 0#8)
    (hn : ∀ c ∈ m, c.1 ≠ a) (h : Memory.wf m = true) : Memory.wf (Memory.list a v m) = true := by
  induction m with
  | nil => simp [Memory.list, Memory.wf, Memory.above, ha, hv]
  | cons c rest ih =>
    have hw := h
    simp only [Memory.wf, Bool.and_eq_true, decide_eq_true_eq] at h
    by_cases hc : c.1 < a
    · have := ih (fun d hd => hn d (List.mem_cons_of_mem _ hd)) h.2
      simp [Memory.list, hc, Memory.wf, h.1.1.1, h.1.1.2, Memory.above_list rest v hc h.1.2, this]
    · have hlt : a < c.1 := by
        have := hn c List.mem_cons_self
        omega
      have hab : Memory.above a (c :: rest) = true := by
        simp [Memory.above, hlt, Memory.above_of_le rest hlt.le h.1.2]
      unfold Memory.list
      rw [if_neg hc]
      simp only [Memory.wf, Bool.and_eq_true, decide_eq_true_eq]
      exact ⟨⟨⟨ha, hv⟩, hab⟩, h⟩

/-- A write to a cell of the buffer keeps the canonical form. -/
theorem Memory.wf_write (m : Memory) (a : Nat) (v : Byte) (ha : a < capacity) (h : Memory.wf m = true) :
    Memory.wf (Memory.write m a v) = true := by
  unfold Memory.write
  split
  · exact Memory.wf_unlist m a h
  · refine Memory.wf_list _ a v ha ‹_› ?_ (Memory.wf_unlist m a h)
    intro c hc
    simpa using (List.mem_filter.mp hc).2

/-- The buffer after power-on reset is in canonical form. -/
theorem Memory.wf_reset : Memory.wf State.reset.buf = true := rfl

/-- As many cells as asked for. -/
@[simp] theorem cells_length (m : Memory) (a n : Nat) : (cells m a n).length = n := by
  induction n generalizing a with
  | zero => rfl
  | succ n ih => simp [cells, ih]

/-- The cells before a written one are as they were. -/
theorem cells_write_beyond (m : Memory) (v : Byte) {a k n : Nat} (h : a + n ≤ k) :
    cells (Memory.write m k v) a n = cells m a n := by
  induction n generalizing a with
  | zero => rfl
  | succ n ih => simp [cells, Memory.read_write_other m v (by omega : a ≠ k), ih (by omega : a + 1 + n ≤ k)]

/-- One cell more. -/
theorem cells_succ (m : Memory) (a n : Nat) : cells m a (n + 1) = cells m a n ++ [Memory.read m (a + n)] := by
  induction n generalizing a with
  | zero => rfl
  | succ n ih =>
    rw [cells, ih (a + 1), cells]
    simp [Nat.add_assoc, Nat.add_comm 1 n]

/-- Storing the next byte of a message lengthens the message held by that byte. -/
theorem cells_write_next (m : Memory) (v : Byte) (n : Nat) :
    cells (Memory.write m n v) 0 (n + 1) = cells m 0 n ++ [v] := by
  rw [cells_succ, cells_write_beyond m v (by omega)]
  simp

end Sys2Proof.Machine
end

