-- ==== Sys2Proof/Laws/Framer.lean ====
section
/-! SUPPORT. What the Framer's operations can do (40_framer.md R107). -/

namespace Sys2Proof.Machine

theorem legalLength_iff {b : Byte} : legalLength b = true ↔ 3 ≤ b.toNat ∧ b.toNat ≤ 32 := by
  simp only [legalLength, Bool.and_eq_true, decide_eq_true_eq]

theorem checksumMatches_of_le {m : Memory} {l : Nat} (h1 : 1 ≤ l) (h2 : l ≤ 32) :
    checksumMatches m l = some (decide (checksum (cells m 0 (l - 1)) = Memory.read m (l - 1))) := by
  unfold checksumMatches
  rw [if_neg (by simp only [capacity]; omega)]

/-- The `index` register has room for the count after a byte is appended. -/
theorem index_succ_toNat {i : BitVec 6} (h : i.toNat < 32) : (i + 1).toNat = i.toNat + 1 := by
  have : (i + 1).toNat = (i.toNat + 1) % 64 := BitVec.toNat_add i 1
  omega

/-- FEED_DATA before the last byte (R104). -/
theorem feedData_more {b : Byte} {s : State} (h1 : s.index.toNat < 32) (h2 : s.index.toNat + 1 < s.length.toNat) :
    feedData b s = .next ({ putCell s.index.toNat b s with index := s.index + 1 }, .none) := by
  simp only [feedData, capacity, h1, if_true, index_succ_toNat h1, putCell_length, h2]

/-- FEED_DATA on the last byte of a message of a length the buffer holds (R104). -/
theorem feedData_last {b : Byte} {s : State} (h1 : s.index.toNat < 32) (h2 : s.length.toNat ≤ s.index.toNat + 1)
    (h3 : 1 ≤ s.length.toNat) :
    feedData b s =
      .next (framerReset (putCell s.index.toNat b s),
        if checksum (cells (Memory.write s.buf s.index.toNat b) 0 (s.length.toNat - 1)) =
          Memory.read (Memory.write s.buf s.index.toNat b) (s.length.toNat - 1) then .ok else .err) := by
  have hm := checksumMatches_of_le (m := Memory.write s.buf s.index.toNat b) h3 (by omega)
  simp only [feedData, capacity, h1, if_true, index_succ_toNat h1, putCell_length, Nat.not_lt.mpr h2, if_false,
    completeMessage, putCell_buf, hm]
  by_cases hc : checksum (cells (Memory.write s.buf s.index.toNat b) 0 (s.length.toNat - 1)) =
      Memory.read (Memory.write s.buf s.index.toNat b) (s.length.toNat - 1) <;> simp [hc, framerReset]

/-- Everything FEED_DATA can answer. -/
theorem feedData_cases (b : Byte) (s : State) :
    (∃ r, r ≠ FResult.none ∧ feedData b s = .next (framerReset (putCell s.index.toNat b s), r) ∧ s.index.toNat < 32) ∨
    (feedData b s = .next ({ putCell s.index.toNat b s with index := s.index + 1 }, .none) ∧
      s.index.toNat + 1 < s.length.toNat ∧ s.index.toNat < 32) ∨
    (feedData b s = .fault .cellOutOfRange ∧ (32 ≤ s.index.toNat ∨ s.length = 0)) := by
  by_cases h1 : s.index.toNat < 32
  · by_cases h2 : s.index.toNat + 1 < s.length.toNat
    · exact .inr (.inl ⟨feedData_more h1 h2, h2, h1⟩)
    · by_cases h3 : 1 ≤ s.length.toNat
      · refine .inl ⟨_, ?_, feedData_last h1 (by omega) h3, h1⟩
        split <;> simp
      · have h0 : s.length = 0 := BitVec.eq_of_toNat_eq (by simpa using by omega)
        refine .inr (.inr ⟨?_, .inr h0⟩)
        simp [feedData, capacity, h1, h0, completeMessage, checksumMatches]
  · refine .inr (.inr ⟨?_, .inl (by omega)⟩)
    simp [feedData, capacity, h1]

/-- Everything `feed` can do (R107). -/
theorem feed_cases {b : Byte} {s u : State} {r : FResult} (h : feed b s = .next (u, r)) :
    (s.fstate = .idle ∧ r = .none ∧ u = { putCell 0 b s with index := 1, fstate := .readingLength }) ∨
    (s.fstate = .readingLength ∧ legalLength b = true ∧ r = .none ∧
      u = { putCell 1 b s with length := b, index := 2, fstate := .readingData }) ∨
    (s.fstate = .readingLength ∧ legalLength b = false ∧ r = .err ∧ u = framerReset (putCell 1 b s)) ∨
    (s.fstate = .readingData ∧ s.index.toNat < 32 ∧ s.index.toNat + 1 < s.length.toNat ∧ r = .none ∧
      u = { putCell s.index.toNat b s with index := s.index + 1 }) ∨
    (s.fstate = .readingData ∧ s.index.toNat < 32 ∧ r ≠ .none ∧ u = framerReset (putCell s.index.toNat b s)) := by
  unfold feed at h
  split at h
  case h_1 hf =>
    obtain ⟨rfl, rfl⟩ := by simpa [feedAddr, eq_comm] using h
    exact .inl ⟨hf, rfl, rfl⟩
  case h_2 hf =>
    split at h
    case isTrue hl =>
      obtain ⟨rfl, rfl⟩ := by simpa [feedLenOk, eq_comm] using h
      exact .inr (.inl ⟨hf, hl, rfl, rfl⟩)
    case isFalse hl =>
      simp only [feedLenBad, Host.Outcome.next.injEq, Prod.mk.injEq] at h
      obtain ⟨rfl, rfl⟩ := h
      exact .inr (.inr (.inl ⟨hf, by simpa using hl, rfl, rfl⟩))
  case h_3 hf =>
    rcases feedData_cases b s with ⟨r', hr, e, hi⟩ | ⟨e, hl, hi⟩ | ⟨e, -⟩ <;> rw [e] at h
    · obtain ⟨rfl, rfl⟩ := by simpa [eq_comm] using h
      exact .inr (.inr (.inr (.inr ⟨hf, hi, hr, rfl⟩)))
    · obtain ⟨rfl, rfl⟩ := by simpa [eq_comm] using h
      exact .inr (.inr (.inr (.inl ⟨hf, hi, hl, rfl, rfl⟩)))
    · cases h

/-- `feed` touches the Framer's registers and one cell, and nothing else (R42, R22). -/
theorem feed_frame {b : Byte} {s u : State} {r : FResult} (h : feed b s = .next (u, r)) :
    u = { s with fstate := u.fstate, index := u.index, length := u.length, buf := Memory.write s.buf s.nextCell b } := by
  rcases feed_cases h with ⟨hf, -, rfl⟩ | ⟨hf, -, -, rfl⟩ | ⟨hf, -, -, rfl⟩ | ⟨hf, -, -, -, rfl⟩ | ⟨hf, -, -, rfl⟩ <;>
    simp [State.nextCell, hf, putCell, framerReset]

/-- A completed or abandoned message leaves the Framer reset (R100). -/
theorem feed_fresh {b : Byte} {s u : State} {r : FResult} (h : feed b s = .next (u, r)) (hr : r ≠ .none) : u.Fresh := by
  rcases feed_cases h with ⟨-, rfl, rfl⟩ | ⟨-, -, rfl, rfl⟩ | ⟨-, -, -, rfl⟩ | ⟨-, -, -, rfl, rfl⟩ | ⟨-, -, -, rfl⟩
  all_goals first | exact absurd rfl hr | exact ⟨rfl, rfl, rfl⟩

/-- From a state of R40 `feed` answers. -/
theorem feed_answers (b : Byte) {s : State} (h : s.FramerInv) : ∃ u r, feed b s = .next (u, r) := by
  unfold feed
  split
  · exact ⟨_, _, rfl⟩
  · split <;> exact ⟨_, _, rfl⟩
  · next hf =>
    have h' := h.2.2 hf
    rcases feedData_cases b s with ⟨r, -, e, -⟩ | ⟨e, -⟩ | ⟨-, h0 | h0⟩
    · exact ⟨_, _, e⟩
    · exact ⟨_, _, e⟩
    · omega
    · simp [h0] at h'

/-- `feed` keeps the Framer's part of R40. -/
theorem feed_keeps_framerInv {b : Byte} {s u : State} {r : FResult} (h : feed b s = .next (u, r)) (hi : s.FramerInv) :
    u.FramerInv := by
  rcases feed_cases h with ⟨hf, -, rfl⟩ | ⟨hf, hl, -, rfl⟩ | ⟨hf, -, -, rfl⟩ | ⟨hf, hx, hl, -, rfl⟩ | ⟨hf, -, -, rfl⟩
  · simp [State.FramerInv, (hi.1 hf).2]
  · have := legalLength_iff.mp hl
    simp only [State.FramerInv, putCell_buf, Memory.read_write_same]
    exact ⟨by simp, by simp, fun _ => ⟨trivial, this.1, this.2, by decide, this.1⟩⟩
  · simp [State.FramerInv]
  · have h' := hi.2.2 hf
    simp only [State.FramerInv, putCell_fstate, hf, putCell_buf, putCell_length, index_succ_toNat hx]
    refine ⟨by simp, by simp, fun _ => ⟨?_, h'.2.1, h'.2.2.1, by omega, by omega⟩⟩
    rw [Memory.read_write_other _ _ (by omega)]
    exact h'.1
  · simp [State.FramerInv]

/-- The next cell lies inside the buffer in a state of R40. -/
theorem nextCell_lt {s : State} (h : s.FramerInv) : s.nextCell < capacity := by
  unfold State.nextCell capacity
  split
  · omega
  · omega
  · next hf => have := h.2.2 hf; omega

end Sys2Proof.Machine
end

