-- ==== Sys2Proof/Laws/PerInstr.lean ====
section
/-! SUPPORT. Per operation: its word, whatever its operands, is one its row of spec/opcode_table.json describes. -/

namespace Sys2Proof.Laws.RowWord

/-- A word as the number the opcode table masks: a whole frame with its first byte most significant, and of an upstream
text the code of its first character (R94). -/
def value : OpWord → Nat
  | .ev w => w.toNat
  | .sk key _ => key.toNat
  | .fk w => w.toNat
  | .mk w => w.toNat
  | .tpl f => f.foldl (fun n b => 256 * n + b.toNat) 0
  | .up t => match t with | [] => 0 | c :: _ => c.toNat

/-- The mask and the match of an operation's row; 0 and 0 where the table gives none. -/
def row : Instr → Nat × Nat
  | .evTick _ => (0x300, 0x000)
  | .evByte _ => (0x300, 0x100)
  | .evForceReinit _ => (0x300, 0x200)
  | .sForceReinit _ => (0x03, 0x02)
  | .sThrottle _ => (0x03, 0x00)
  | .sIdleAny _ _ => (0x1C, 0x00)
  | .sLinebreakAny _ _ => (0x1C, 0x04)
  | .sWakeTick => (0x1F, 0x08)
  | .sDropByteWake _ => (0x1F, 0x09)
  | .sInitTick => (0x1F, 0x0C)
  | .sDropByteInit _ => (0x1F, 0x0D)
  | .sRunTick => (0x1F, 0x10)
  | .sRunByte _ => (0x1F, 0x11)
  | .sRetryTick => (0x1F, 0x14)
  | .sDropByteRetry _ => (0x1F, 0x15)
  | .sRunOk => (0, 0)
  | .sRunErr => (0, 0)
  | .sRunNone => (0, 0)
  | .feedAddr _ => (0x300, 0x000)
  | .feedLenOk _ => (0x300, 0x100)
  | .feedLenBad _ => (0x300, 0x100)
  | .feedData _ => (0x300, 0x200)
  | .reset => (0, 0)
  | .checksum => (0, 0)
  | .rspInitAck _ _ => (0xFF00FF00, 0x02000000)
  | .rspTableData _ _ => (0xFF00FF00, 0x02007100)
  | .rspTableA _ => (0xFF00FFFF, 0x02007111)
  | .rspTableB _ => (0xFF00FFFF, 0x020071D1)
  | .rspTableOther _ _ => (0xFF00FF00, 0x02007100)
  | .rspOther _ _ _ => (0xFF000000, 0x02000000)
  | .nonResponse _ _ _ _ => (0x00000000, 0x00000000)
  | .sendDownWake => (0xFFFFFFFF, 0xFE04FFFF)
  | .sendDownInit => (0xFFFFFFFFFF, 0x720500F099)
  | .sendDownReadTableA => (0xFFFFFFFFFF, 0x7205711107)
  | .sendDownReadTableB => (0xFFFFFFFFFF, 0x720571D147)
  | .sendUpReport _ => (0xFF, 0x3A)
  | .sendUpDiag => (0x00, 0x00)
  | .sendUp _ => (0, 0)
  | .hex2 _ => (0, 0)

/-- The word of `i`, if it has one, matches its row, under any parameters. -/
def Statement (i : Instr) : Prop :=
  ∀ c w, encode c i = some w → value w &&& (row i).1 = (row i).2

theorem ev_row (r : Reason) (b : Byte) : (evWord r b).toNat &&& 0x300 = r.code.toNat * 0x100 := by
  have h : evWord r b &&& ((3#2 ++ 0#8 : BitVec 10)) = (r.code ++ 0#8 : BitVec 10) := by
    rw [evWord, BitVec.and_append]
    cases r <;> simp [Reason.code]
  have := congrArg BitVec.toNat h
  rw [BitVec.toNat_and] at this
  refine this.trans ?_
  cases r <;> rfl

theorem fk_row (f : FState) (b : Byte) : (fkWord f b).toNat &&& 0x300 = f.code.toNat * 0x100 := by
  have h : fkWord f b &&& ((3#2 ++ 0#8 : BitVec 10)) = (f.code ++ 0#8 : BitVec 10) := by
    rw [fkWord, BitVec.and_append]
    cases f <;> simp [FState.code]
  have := congrArg BitVec.toNat h
  rw [BitVec.toNat_and] at this
  refine this.trans ?_
  cases f <;> rfl

theorem mk_row {b0 b1 b2 b3 m0 m1 m2 m3 c0 c1 c2 c3 : Byte}
    (h : b0 &&& m0 = c0 ∧ b1 &&& m1 = c1 ∧ b2 &&& m2 = c2 ∧ b3 &&& m3 = c3) :
    (mkWord b0 b1 b2 b3).toNat &&& (mkWord m0 m1 m2 m3).toNat = (mkWord c0 c1 c2 c3).toNat := by
  rw [← BitVec.toNat_and, mkWord_and, h.1, h.2.1, h.2.2.1, h.2.2.2]

theorem evTick (ignored : Byte) : Statement (.evTick ignored) := by
  intro c w h; cases h; exact ev_row _ _

theorem evByte (byte : Byte) : Statement (.evByte byte) := by
  intro c w h; cases h; exact ev_row _ _

theorem evForceReinit (ignored : Byte) : Statement (.evForceReinit ignored) := by
  intro c w h; cases h; exact ev_row _ _

theorem sForceReinit (st : SState) : Statement (.sForceReinit st) := by
  intro c w h; cases h; cases st <;> rfl

theorem sThrottle (st : SState) : Statement (.sThrottle st) := by
  intro c w h; cases h; cases st <;> rfl

theorem sIdleAny (r : Reason) (ignored : Byte) : Statement (.sIdleAny r ignored) := by
  intro c w h; cases h
  exact (by cases r <;> decide : (skWord .idle r).toNat &&& 0x1C = 0x00)

theorem sLinebreakAny (r : Reason) (ignored : Byte) : Statement (.sLinebreakAny r ignored) := by
  intro c w h; cases h
  exact (by cases r <;> decide : (skWord .lineBreak r).toNat &&& 0x1C = 0x04)

theorem sWakeTick : Statement .sWakeTick := by
  intro c w h; cases h; rfl

theorem sDropByteWake (ignored : Byte) : Statement (.sDropByteWake ignored) := by
  intro c w h; cases h
  exact (by decide : (skWord .wake .byteReceived).toNat &&& 0x1F = 0x09)

theorem sInitTick : Statement .sInitTick := by
  intro c w h; cases h; rfl

theorem sDropByteInit (ignored : Byte) : Statement (.sDropByteInit ignored) := by
  intro c w h; cases h
  exact (by decide : (skWord .init .byteReceived).toNat &&& 0x1F = 0x0D)

theorem sRunTick : Statement .sRunTick := by
  intro c w h; cases h; rfl

theorem sRunByte (byte : Byte) : Statement (.sRunByte byte) := by
  intro c w h; cases h
  exact (by decide : (skWord .run .byteReceived).toNat &&& 0x1F = 0x11)

theorem sRetryTick : Statement .sRetryTick := by
  intro c w h; cases h; rfl

theorem sDropByteRetry (ignored : Byte) : Statement (.sDropByteRetry ignored) := by
  intro c w h; cases h
  exact (by decide : (skWord .retryTableA .byteReceived).toNat &&& 0x1F = 0x15)

theorem sRunOk : Statement .sRunOk := by
  intro c w h; cases h

theorem sRunErr : Statement .sRunErr := by
  intro c w h; cases h

theorem sRunNone : Statement .sRunNone := by
  intro c w h; cases h

theorem feedAddr (byte : Byte) : Statement (.feedAddr byte) := by
  intro c w h; cases h; exact fk_row _ _

theorem feedLenOk (byte : Byte) : Statement (.feedLenOk byte) := by
  intro c w h; cases h; exact fk_row _ _

theorem feedLenBad (byte : Byte) : Statement (.feedLenBad byte) := by
  intro c w h; cases h; exact fk_row _ _

theorem feedData (byte : Byte) : Statement (.feedData byte) := by
  intro c w h; cases h; exact fk_row _ _

theorem reset : Statement .reset := by
  intro c w h; cases h

theorem checksum : Statement .checksum := by
  intro c w h; cases h

theorem rspInitAck (len tableId : Byte) : Statement (.rspInitAck len tableId) := by
  intro c w h; cases h
  exact mk_row (m0 := 0xff) (m1 := 0x0) (m2 := 0xff) (m3 := 0x0)
    (c0 := 0x2) (c1 := 0x0) (c2 := 0x0) (c3 := 0x0)
    ⟨rfl, by simp, rfl, by simp⟩

theorem rspTableData (len tableId : Byte) : Statement (.rspTableData len tableId) := by
  intro c w h; cases h
  exact mk_row (m0 := 0xff) (m1 := 0x0) (m2 := 0xff) (m3 := 0x0)
    (c0 := 0x2) (c1 := 0x0) (c2 := 0x71) (c3 := 0x0)
    ⟨rfl, by simp, rfl, by simp⟩

theorem rspTableA (len : Byte) : Statement (.rspTableA len) := by
  intro c w h; cases h
  exact mk_row (m0 := 0xff) (m1 := 0x0) (m2 := 0xff) (m3 := 0xff)
    (c0 := 0x2) (c1 := 0x0) (c2 := 0x71) (c3 := 0x11)
    ⟨rfl, by simp, rfl, rfl⟩

theorem rspTableB (len : Byte) : Statement (.rspTableB len) := by
  intro c w h; cases h
  exact mk_row (m0 := 0xff) (m1 := 0x0) (m2 := 0xff) (m3 := 0xff)
    (c0 := 0x2) (c1 := 0x0) (c2 := 0x71) (c3 := 0xd1)
    ⟨rfl, by simp, rfl, rfl⟩

theorem rspTableOther (len tableId : Byte) : Statement (.rspTableOther len tableId) := by
  intro c w h; cases h
  exact mk_row (m0 := 0xff) (m1 := 0x0) (m2 := 0xff) (m3 := 0x0)
    (c0 := 0x2) (c1 := 0x0) (c2 := 0x71) (c3 := 0x0)
    ⟨rfl, by simp, rfl, by simp⟩

theorem rspOther (len opcode tableId : Byte) : Statement (.rspOther len opcode tableId) := by
  intro c w h; cases h
  exact mk_row (m0 := 0xff) (m1 := 0x0) (m2 := 0x0) (m3 := 0x0)
    (c0 := 0x2) (c1 := 0x0) (c2 := 0x0) (c3 := 0x0)
    ⟨rfl, by simp, by simp, by simp⟩

theorem nonResponse (address len opcode tableId : Byte) : Statement (.nonResponse address len opcode tableId) := by
  intro c w h; exact Nat.and_zero _

theorem sendDownWake : Statement .sendDownWake := by
  intro c w h; cases h; rfl

theorem sendDownInit : Statement .sendDownInit := by
  intro c w h; cases h; rfl

theorem sendDownReadTableA : Statement .sendDownReadTableA := by
  intro c w h; cases h; rfl

theorem sendDownReadTableB : Statement .sendDownReadTableB := by
  intro c w h; cases h; rfl

theorem sendUpReport (m : Frame) : Statement (.sendUpReport m) := by
  intro c w h; cases h
  exact (by decide : ':'.toNat &&& 0xFF = 0x3A)

theorem sendUpDiag : Statement .sendUpDiag := by
  intro c w h; exact Nat.and_zero _

theorem sendUp (chars : Text) : Statement (.sendUp chars) := by
  intro c w h; cases h

theorem hex2 (byte : Byte) : Statement (.hex2 byte) := by
  intro c w h; cases h

end Sys2Proof.Laws.RowWord
end

