-- ==== Sys2Proof/Laws/Responder.lean ====
section
/-! SUPPORT. What the Responder can do (42_responder.md R159, R160). -/

namespace Sys2Proof.Machine

/-- A message length the buffer holds gives the message. -/
theorem message_of_le {s : State} (h : (Memory.read s.buf 1).toNat ≤ 32) :
    s.message = some (cells s.buf 0 (Memory.read s.buf 1).toNat) := if_pos h

/-- The table-data stage reports the message. -/
theorem rspTableData_of_message {s : State} {m : Frame} (h : s.message = some m) :
    rspTableData s = .next (emit (.up (report m)) s) := by
  simp [rspTableData, h]

/-- Everything the table-data stage can answer. -/
theorem rspTableData_eq_next {s u : State} (h : rspTableData s = .next u) :
    ∃ m, s.message = some m ∧ u = emit (.up (report m)) s := by
  unfold rspTableData at h
  split at h
  · next m hm => exact ⟨m, hm, by simpa [eq_comm] using h⟩
  · cases h

/-- Everything `classify` can do: it appends at most an upstream report and a request, and returns Run, or RetryTableA
for Table-B (R159, R160). -/
theorem classify_cases {s u : State} {st : SState} (h : classify s = .next (u, st)) :
    (u = s ∧ st = .run) ∨
    (u = emit (.down (rom .readTableA)) s ∧ st = .run) ∨
    (∃ m, s.message = some m ∧ u = emit (.down (rom .readTableB)) (emit (.up (report m)) s) ∧ st = .run) ∨
    (∃ m, s.message = some m ∧ u = emit (.up (report m)) s ∧ (st = .run ∨ st = .retryTableA)) := by
  unfold classify at h
  split_ifs at h
  · exact .inl (by simpa [nonResponse, eq_comm] using h)
  · exact .inr (.inl (by simpa [rspInitAck, eq_comm] using h))
  · obtain ⟨v, hv, e⟩ := andThen_eq_next.mp h
    obtain ⟨m, hm, rfl⟩ := rspTableData_eq_next hv
    exact .inr (.inr (.inl ⟨m, hm, by simpa [eq_comm] using e⟩))
  · obtain ⟨v, hv, e⟩ := andThen_eq_next.mp h
    obtain ⟨m, hm, rfl⟩ := rspTableData_eq_next hv
    obtain ⟨rfl, rfl⟩ := by simpa [eq_comm] using e
    exact .inr (.inr (.inr ⟨m, hm, rfl, .inr rfl⟩))
  · obtain ⟨v, hv, e⟩ := andThen_eq_next.mp h
    obtain ⟨m, hm, rfl⟩ := rspTableData_eq_next hv
    obtain ⟨rfl, rfl⟩ := by simpa [eq_comm] using e
    exact .inr (.inr (.inr ⟨m, hm, rfl, .inl rfl⟩))
  · exact .inl (by simpa [rspOther, eq_comm] using h)

/-- `classify` writes no register and returns Run or RetryTableA (R159, R160). -/
theorem classify_frame {s u : State} {st : SState} (h : classify s = .next (u, st)) :
    u = { s with trace := u.trace } ∧ (st = .run ∨ st = .retryTableA) := by
  rcases classify_cases h with ⟨rfl, rfl⟩ | ⟨rfl, rfl⟩ | ⟨m, -, rfl, rfl⟩ | ⟨m, -, rfl, hst⟩
  · exact ⟨rfl, .inl rfl⟩
  · exact ⟨rfl, .inl rfl⟩
  · exact ⟨rfl, .inl rfl⟩
  · exact ⟨rfl, hst⟩

/-- `classify` answers whenever the message lies inside the buffer. -/
theorem classify_answers {s : State} {m : Frame} (h : s.message = some m) : ∃ u st, classify s = .next (u, st) := by
  unfold classify
  split_ifs <;> simp [nonResponse, rspInitAck, rspOther, rspTableA, rspTableB, rspTableOther, rspTableData, h]

end Sys2Proof.Machine
end

