-- ==== Sys2Proof/Laws/Session.lean ====
section
/-! SUPPORT. What the Session can do (41_session.md R136): the throttle, the arms, `step`. -/

namespace Sys2Proof.Machine

@[simp] theorem throttled_run (f : ThrottleFirst) : throttled f .run = true := by cases f <;> rfl

@[simp] theorem throttled_retryTableA (f : ThrottleFirst) : throttled f .retryTableA = true := by cases f <;> rfl

@[simp] theorem throttled_idle (f : ThrottleFirst) : throttled f .idle = false := by cases f <;> rfl

@[simp] theorem throttled_lineBreak (f : ThrottleFirst) : throttled f .lineBreak = false := by cases f <;> rfl

@[simp] theorem throttled_wake (f : ThrottleFirst) : throttled f .wake = decide (f = .wake) := by cases f <;> rfl

@[simp] theorem throttled_init (f : ThrottleFirst) : throttled f .init = decide (f = .wake) := by cases f <;> rfl

/-- The throttle swallows a tick below the threshold. -/
theorem throttleTick_swallows {s : State} (h : (s.tickCount + 1).toNat < s.cfg.tickThreshold) :
    throttleTick s = ({ s with tickCount := s.tickCount + 1 }, some .cont) := if_pos h

/-- The throttle passes the tick that reaches the threshold. -/
theorem throttleTick_passes {s : State} (h : s.cfg.tickThreshold ≤ (s.tickCount + 1).toNat) :
    throttleTick s = ({ s with tickCount := 0 }, none) := if_neg (Nat.not_lt.mpr h)

/-- The throttle writes its counter and nothing else (R122). -/
theorem throttleTick_frame (s : State) : (throttleTick s).1 = { s with tickCount := (throttleTick s).1.tickCount } := by
  rcases Nat.lt_or_ge (s.tickCount + 1).toNat s.cfg.tickThreshold with h | h
  · rw [throttleTick_swallows h]
  · rw [throttleTick_passes h]

/-- A Tick never fails: it is swallowed, or the arm of the state answers it (R122, R123). -/
theorem stepTick_cases (s : State) :
    (throttled s.cfg.throttleFirst s.sstate = true ∧ (s.tickCount + 1).toNat < s.cfg.tickThreshold ∧
      stepTick s = .next ({ s with tickCount := s.tickCount + 1 }, .cont)) ∨
    (throttled s.cfg.throttleFirst s.sstate = true ∧ s.cfg.tickThreshold ≤ (s.tickCount + 1).toNat ∧
      stepTick s = tickArm { s with tickCount := 0 }) ∨
    (throttled s.cfg.throttleFirst s.sstate = false ∧ stepTick s = tickArm s) := by
  cases ht : throttled s.cfg.throttleFirst s.sstate
  · exact .inr (.inr ⟨rfl, by simp [stepTick, ht]⟩)
  · rcases Nat.lt_or_ge (s.tickCount + 1).toNat s.cfg.tickThreshold with h | h
    · exact .inl ⟨rfl, h, by simp only [stepTick, ht, if_true, throttleTick_swallows h]⟩
    · exact .inr (.inl ⟨rfl, h, by simp only [stepTick, ht, if_true, throttleTick_passes h]⟩)

/-- The watchdog's arm: quiet, or the liveness failure (R133). -/
theorem runTick_cases (s : State) :
    (∃ w : Byte, runTick s = ({ s with watchdogCount := w }, .cont) ∧ w.toNat ≤ s.cfg.watchdogMax) ∨
    (∃ w : Byte, runTick s = (emit (.up s.cfg.diagReport) { s with watchdogCount := w }, .needsFullReinit) ∧
      s.cfg.watchdogMax < w.toNat ∧
      (w = s.watchdogCount + 1 ∧ s.watchdogCount.toNat ≤ s.cfg.watchdogMax ∨
        w = s.watchdogCount ∧ s.cfg.watchdogMax < s.watchdogCount.toNat)) := by
  by_cases h : s.watchdogCount.toNat ≤ s.cfg.watchdogMax
  · by_cases hx : s.cfg.watchdogMax < (s.watchdogCount + 1).toNat
    · exact .inr ⟨s.watchdogCount + 1, by simp only [runTick, h, if_true, watchdogExpired, hx, decide_true,
        takeException_liveness], hx, .inl ⟨rfl, h⟩⟩
    · refine .inl ⟨s.watchdogCount + 1, ?_, by omega⟩
      simp only [runTick, h, if_true, watchdogExpired, hx, decide_false, if_false, Bool.false_eq_true]
  · refine .inr ⟨s.watchdogCount, ?_, by omega, .inr ⟨rfl, by omega⟩⟩
    simp only [runTick, h, if_false, watchdogExpired, Nat.lt_of_not_le h, decide_true, if_true, takeException_liveness]

/-- A counter below its top counts one more. -/
theorem count_succ_toNat {x : Byte} (h : x.toNat < 255) : (x + 1).toNat = x.toNat + 1 := by
  have : (x + 1).toNat = (x.toNat + 1) % 256 := BitVec.toNat_add x 1
  omega

/-- A silent period before the watchdog's last (R133). -/
theorem runTick_quiet {s : State} (ha : s.cfg.watchdogMax ≤ 254) (h : s.watchdogCount.toNat < s.cfg.watchdogMax) :
    runTick s = ({ s with watchdogCount := s.watchdogCount + 1 }, .cont) := by
  rcases runTick_cases s with ⟨w, e, hw⟩ | ⟨w, -, hw, ⟨rfl, -⟩ | ⟨rfl, hx⟩⟩
  · have hs := count_succ_toNat (x := s.watchdogCount) (by omega)
    simp only [runTick, h.le, if_true, watchdogExpired, hs]
    rw [if_neg (by simp only [decide_eq_true_eq]; omega)]
  · rw [count_succ_toNat (by omega)] at hw; omega
  · omega

/-- The silent period that expires the watchdog, and every one after it (R133). -/
theorem runTick_expires {s : State} (ha : s.cfg.watchdogMax ≤ 254) (h : s.cfg.watchdogMax ≤ s.watchdogCount.toNat) :
    ∃ w : Byte, w.toNat = max s.watchdogCount.toNat (s.cfg.watchdogMax + 1) ∧
      runTick s = (emit (.up s.cfg.diagReport) { s with watchdogCount := w }, .needsFullReinit) := by
  by_cases hx : s.watchdogCount.toNat ≤ s.cfg.watchdogMax
  · have hs := count_succ_toNat (x := s.watchdogCount) (by omega)
    refine ⟨s.watchdogCount + 1, by omega, ?_⟩
    simp only [runTick, hx, if_true, watchdogExpired, hs]
    rw [if_pos (by simp only [decide_eq_true_eq]; omega), takeException_liveness]
  · refine ⟨s.watchdogCount, by omega, ?_⟩
    simp only [runTick, hx, if_false, watchdogExpired, Nat.lt_of_not_le hx, decide_true, if_true, takeException_liveness]

/-- A Tick's arm always answers, and leaves the Framer, the parameters and the inbox alone. -/
theorem tickArm_answers (s : State) : ∃ u c, tickArm s = .next (u, c) ∧
    u = { s with sstate := u.sstate, watchdogCount := u.watchdogCount, trace := u.trace } := by
  unfold tickArm
  split
  case h_5 =>
    rcases runTick_cases s with ⟨w, e, -⟩ | ⟨w, e, -⟩
    · exact ⟨_, _, by rw [e], rfl⟩
    · exact ⟨_, _, by rw [e], rfl⟩
  all_goals exact ⟨_, _, rfl, rfl⟩

/-- A `step` call for a Tick always answers, and leaves the Framer, the parameters and the inbox alone. -/
theorem stepTick_answers (s : State) : ∃ u c, stepTick s = .next (u, c) ∧
    u = { s with
      sstate := u.sstate, tickCount := u.tickCount, watchdogCount := u.watchdogCount, trace := u.trace } := by
  rcases stepTick_cases s with ⟨-, -, e⟩ | ⟨-, -, e⟩ | ⟨-, e⟩ <;> rw [e]
  · exact ⟨_, _, rfl, rfl⟩
  · obtain ⟨u, c, h, hu⟩ := tickArm_answers { s with tickCount := 0 }
    refine ⟨u, c, h, ?_⟩
    rw [hu]
  · obtain ⟨u, c, h, hu⟩ := tickArm_answers s
    refine ⟨u, c, h, ?_⟩
    rw [hu]

/-- Everything a received byte can do in Run, by the Framer's result (R128). -/
theorem runByte_cases {b : Byte} {s t : State} {c : ContinueSignal} (h : runByte b s = .next (t, c)) :
    c = .cont ∧ ∃ u r, feed b s = .next (u, r) ∧
      ((r = .none ∧ t = u) ∨ (r = .err ∧ t = enterRetry u) ∨
        (r = .ok ∧ ∃ v st, classify u = .next (v, st) ∧
          t = { v with
            sstate := st, watchdogCount := 0, tickCount := if v.cfg.tickResetOnOk then 0 else v.tickCount })) := by
  obtain ⟨⟨u, r⟩, hf, ha⟩ := andThen_eq_next.mp h
  cases r
  · cases ha
    exact ⟨rfl, _, .none, hf, .inl ⟨rfl, rfl⟩⟩
  · obtain ⟨⟨v, st⟩, hc, e⟩ := andThen_eq_next.mp ha
    cases e
    exact ⟨rfl, u, .ok, hf, .inr (.inr ⟨rfl, v, st, hc, rfl⟩)⟩
  · cases ha
    exact ⟨rfl, u, .err, hf, .inr (.inl ⟨rfl, rfl⟩)⟩

/-- A completed message changes the Session's registers and the outputs, and leads to Run or RetryTableA (R130). -/
theorem runOk_frame {s t : State} {c : ContinueSignal} (h : runOk s = .next (t, c)) :
    t = { s with sstate := t.sstate, tickCount := t.tickCount, watchdogCount := 0, trace := t.trace } ∧
      (t.sstate = .run ∨ t.sstate = .retryTableA) := by
  obtain ⟨⟨v, st⟩, hc, e⟩ := andThen_eq_next.mp h
  cases e
  obtain ⟨hv, hst⟩ := classify_frame hc
  exact ⟨by rw [hv], hst⟩

/-- A byte in Run writes one cell, and neither the parameters nor the inbox (R128). -/
theorem runByte_frame {b : Byte} {s t : State} {c : ContinueSignal} (h : runByte b s = .next (t, c)) :
    t.buf = Memory.write s.buf s.nextCell b ∧ t.cfg = s.cfg ∧ t.inbox = s.inbox ∧
      (t.sstate = s.sstate ∨ t.sstate = .run ∨ t.sstate = .retryTableA) := by
  obtain ⟨-, u, r, hf, hc⟩ := runByte_cases h
  have hu := feed_frame hf
  rcases hc with ⟨-, rfl⟩ | ⟨-, rfl⟩ | ⟨-, v, st, hcl, rfl⟩
  · rw [hu]; exact ⟨rfl, rfl, rfl, .inl rfl⟩
  · rw [hu]; refine ⟨rfl, rfl, rfl, ?_⟩; simp only [enterRetry_sstate]; split <;> simp
  · obtain ⟨hv, hst⟩ := classify_frame hcl
    rw [hv, hu]; exact ⟨rfl, rfl, rfl, .inr hst⟩

/-- Outside Run a received byte changes nothing (R124, R125, R135). -/
theorem byteArm_of_not_run (b : Byte) {s : State} (h : s.sstate ≠ .run) : byteArm b s = .next (s, .cont) := by
  unfold byteArm
  split <;> first | rfl | exact absurd ‹_› h

/-- In Run a received byte goes to the Framer (R128). -/
theorem byteArm_of_run (b : Byte) {s : State} (h : s.sstate = .run) : byteArm b s = runByte b s := by
  simp [byteArm, h]

/-! ### The three events -/

theorem exec_evTick (b : Byte) (s : State) : exec (.evTick b) s = deliver (stepTick s) := rfl

theorem exec_evByte (b : Byte) (s : State) : exec (.evByte b) s = deliver (byteArm b s) := rfl

theorem exec_evForceReinit (b : Byte) (s : State) :
    exec (.evForceReinit b) s = deliver (.next (forceReinit s, .cont)) := rfl

end Sys2Proof.Machine
end

