-- ==== Sys2Proof/Tests/Slice0.lean ====
section
/-! SUPPORT. Tests: ill-formed operations refused, words written out from 30_encoding.md and spec/opcode_table.json,
single steps from 95_test_vectors.md, and for every statement with hypotheses a witness that meets them. -/

namespace Sys2Proof.Tests

open Sys2Proof Sys2Proof.Machine

/-! ### Helpers -/

/-- A core state as 95_test_vectors.md writes it: `(sstate, tickCount, watchdogCount | fstate, index, length)`, with
its buffer. -/
def coreAt (st : SState) (tick dog : Byte) (f : FState) (i : BitVec 6) (l : Byte) (buf : Memory) : State :=
  { State.reset with
    sstate := st, tickCount := tick, watchdogCount := dog, fstate := f, index := i, length := l, buf := buf }

/-- The registers a vector shows. -/
structure Regs where
  sstate : SState
  tickCount : Byte
  watchdogCount : Byte
  fstate : FState
  index : BitVec 6
  length : Byte
  deriving DecidableEq, Repr

/-- What a vector shows after an operation: the registers, and what was handed to the host. -/
structure Seen where
  regs : Regs
  out : List Output
  deriving DecidableEq, Repr

/-- What a vector shows, of an operation that answered. -/
def seen (o : Host.Outcome State Fault Refusal) : Option Seen :=
  match o with
  | .next t => some ⟨⟨t.sstate, t.tickCount, t.watchdogCount, t.fstate, t.index, t.length⟩, t.trace⟩
  | .fault _ => none
  | .refused _ => none

/-- The value an operation returned. -/
def value (o : Host.Outcome State Fault Refusal) : Option Ret :=
  match o with
  | .next t => some t.ret
  | .fault _ => none
  | .refused _ => none

/-- The first `n` cells after an operation. -/
def bufferAfter (n : Nat) (o : Host.Outcome State Fault Refusal) : Option Frame :=
  match o with
  | .next t => some (cells t.buf 0 n)
  | .fault _ => none
  | .refused _ => none

/-- The buffer holding `{02 05 71 11}` (E1). -/
def bufE1 : Memory := [(0, 0x02), (1, 0x05), (2, 0x71), (3, 0x11)]

/-- The buffer holding a whole message of length 5. -/
def buf5 (b0 b2 b3 b4 : Byte) : Memory :=
  Memory.write (Memory.write (Memory.write (Memory.write (Memory.write [] 0 b0) 1 0x05) 2 b2) 3 b3) 4 b4

/-- Run with nothing received. -/
def running : State := coreAt .run 0 0 .idle 0 0 []

/-- Run with four bytes of E1 received, at V49's counters. -/
def almostE1 : State := coreAt .run 49 5 .readingData 4 5 bufE1

/-- Other admitted parameters: the other value of each open choice, both numbers at an end of their range, and a
known diagnostic text. -/
def otherConfig : Config := ⟨.stayInRun, .wake, true, 255, 254, ['b', 'y', 'e']⟩

/-! ### Ill-formed operations -/

theorem test_throttle_of_unthrottled_state : (Instr.sThrottle .wake).WellFormed Config.reference = false := by decide

theorem test_idle_arm_of_forceReinit : (Instr.sIdleAny .forceReinit 0).WellFormed Config.reference = false := by decide

theorem test_linebreak_arm_of_forceReinit :
    (Instr.sLinebreakAny .forceReinit 0).WellFormed Config.reference = false := by decide

theorem test_lengths_not_legal :
    (Instr.feedLenOk 0x02).WellFormed Config.reference = false ∧
      (Instr.feedLenOk 0x21).WellFormed Config.reference = false := by decide

theorem test_lengths_not_bad :
    (Instr.feedLenBad 0x03).WellFormed Config.reference = false ∧
      (Instr.feedLenBad 0x20).WellFormed Config.reference = false := by decide

theorem test_other_table_that_is_listed :
    (Instr.rspTableOther 5 0x11).WellFormed Config.reference = false ∧
      (Instr.rspTableOther 5 0xD1).WellFormed Config.reference = false := by decide

theorem test_other_opcode_that_is_listed :
    (Instr.rspOther 5 0x00 0).WellFormed Config.reference = false ∧
      (Instr.rspOther 5 0x71 0).WellFormed Config.reference = false := by decide

theorem test_non_response_with_marker :
    (Instr.nonResponse 0x02 5 0x71 0x11).WellFormed Config.reference = false := by decide

/-! ### Words, bit by bit -/

/-- `ev[9:8] = reason`, `ev[7:0] = byte` (R73). -/
theorem test_ev_words :
    decode (.ev 0b0000000000#10) = .instr (.evTick 0x00) ∧
      decode (.ev 0b0101110111#10) = .instr (.evByte 0x77) ∧
      decode (.ev 0b1010000001#10) = .instr (.evForceReinit 0x81) ∧
      decode (.ev 0b1100000000#10) = .reject .reservedReason := by decide

/-- `sk[4:2] = sstate`, `sk[1:0] = reason` (R74): Idle, LineBreak, ForceReinit. -/
theorem test_sk_words_first :
    decode (.sk 0b10010#5 0x42) = .instr (.sForceReinit .run) ∧
      decode (.sk 0b00000#5 0x42) = .instr (.sIdleAny .tick 0x42) ∧
      decode (.sk 0b00001#5 0x42) = .instr (.sIdleAny .byteReceived 0x42) ∧
      decode (.sk 0b00100#5 0x42) = .instr (.sLinebreakAny .tick 0x42) ∧
      decode (.sk 0b00101#5 0x42) = .instr (.sLinebreakAny .byteReceived 0x42) := by decide

theorem test_sk_words_second :
    decode (.sk 0b01000#5 0x42) = .instr .sWakeTick ∧
      decode (.sk 0b01001#5 0x42) = .instr (.sDropByteWake 0x42) ∧
      decode (.sk 0b01100#5 0x42) = .instr .sInitTick ∧
      decode (.sk 0b01101#5 0x42) = .instr (.sDropByteInit 0x42) ∧
      decode (.sk 0b10000#5 0x42) = .instr .sRunTick ∧
      decode (.sk 0b10001#5 0x42) = .instr (.sRunByte 0x42) ∧
      decode (.sk 0b10100#5 0x42) = .instr .sRetryTick ∧
      decode (.sk 0b10101#5 0x42) = .instr (.sDropByteRetry 0x42) := by decide

/-- Reason 3 and Session states 6 and 7 are unused (R90, R91). -/
theorem test_sk_words_unused :
    decode (.sk 0b10011#5 0) = .reject .reservedReason ∧
      decode (.sk 0b11000#5 0) = .reject .unusedSessionState ∧
      decode (.sk 0b11110#5 0) = .reject .unusedSessionState := by decide

/-- The throttle is a stage before a Tick's arm, in throttled states only (R122, R94). -/
theorem test_throttle_stage :
    stageOf Config.reference (.sk 0b10000#5 0) = some (.sThrottle .run) ∧
      stageOf Config.reference (.sk 0b01000#5 0) = none ∧
      stageOf { Config.reference with throttleFirst := .wake } (.sk 0b01000#5 0) = some (.sThrottle .wake) ∧
      stageOf Config.reference (.sk 0b10001#5 0) = none := by decide

/-- `fk[9:8] = fstate`, `fk[7:0] = byte` (R75). -/
theorem test_fk_words :
    decode (.fk 0b0000000010#10) = .instr (.feedAddr 0x02) ∧
      decode (.fk 0b0100000011#10) = .instr (.feedLenOk 0x03) ∧
      decode (.fk 0b0100100000#10) = .instr (.feedLenOk 0x20) ∧
      decode (.fk 0b0100000010#10) = .instr (.feedLenBad 0x02) ∧
      decode (.fk 0b0100100001#10) = .instr (.feedLenBad 0x21) ∧
      decode (.fk 0b1001110001#10) = .instr (.feedData 0x71) ∧
      decode (.fk 0b1101110001#10) = .reject .unusedFramerState := by decide

/-- `mk = buf[0] buf[1] buf[2] buf[3]`, `buf[0]` most significant (R80). -/
theorem test_mk_words :
    decode (.mk 0b00000010000001000000000011111010#32) = .instr (.rspInitAck 0x04 0xFA) ∧
      decode (.mk 0b00000010000001010111000100010001#32) = .instr (.rspTableA 0x05) ∧
      decode (.mk 0b00000010000001010111000111010001#32) = .instr (.rspTableB 0x05) ∧
      decode (.mk 0b00000010000001010111000100100010#32) = .instr (.rspTableOther 0x05 0x22) ∧
      decode (.mk 0b00000010000001000111111101111011#32) = .instr (.rspOther 0x04 0x7F 0x7B) ∧
      decode (.mk 0b01110010000001010111000100010001#32) = .instr (.nonResponse 0x72 0x05 0x71 0x11) := by decide

/-- The report is a stage before the table-id test (R94, R153). -/
theorem test_table_data_stage :
    stageOf Config.reference (.mk 0b00000010000001010111000100010001#32) = some (.rspTableData 0x05 0x11) ∧
      stageOf Config.reference (.mk 0b00000010000001000000000011111010#32) = none := by decide

/-- The four frames of E8. -/
theorem test_tpl_words :
    decode (.tpl [0xFE, 0x04, 0xFF, 0xFF]) = .instr .sendDownWake ∧
      decode (.tpl [0x72, 0x05, 0x00, 0xF0, 0x99]) = .instr .sendDownInit ∧
      decode (.tpl [0x72, 0x05, 0x71, 0x11, 0x07]) = .instr .sendDownReadTableA ∧
      decode (.tpl [0x72, 0x05, 0x71, 0xD1, 0x47]) = .instr .sendDownReadTableB ∧
      decode (.tpl [0x72, 0x05, 0x71, 0xD1, 0x48]) = .reject .notATemplate := by decide

/-- An upstream text that is a report, and texts that are none (R172, R174; notes/assumptions/11.md). -/
theorem test_up_words :
    decode (.up [':', '0', '2', '0', '4', '7', '1', '8', '9']) = .instr (.sendUpReport [0x02, 0x04, 0x71, 0x89]) ∧
      decode (.up [':', 'a', '0']) = .instr .sendUpDiag ∧
      decode (.up ['x']) = .instr .sendUpDiag := by decide

/-- The word of the diagnostic row is the configured text (R174). -/
theorem test_diag_word :
    encode { Config.reference with diagReport := ['b', 'y', 'e'] } .sendUpDiag = some (.up ['b', 'y', 'e']) ∧
      decode (.up ['b', 'y', 'e']) = .instr .sendUpDiag := by decide

/-- The operations of format INT have no word (R94). -/
theorem test_int_rows_have_no_word :
    [Instr.sRunOk, .sRunErr, .sRunNone, .reset, .checksum, .sendUp [], .hex2 0].map (encode Config.reference) =
      [none, none, none, none, none, none, none] := by decide

/-- Words as the opcode table numbers them. -/
theorem test_table_words :
    decodeTableWord 16 0x0200 = some (.evForceReinit 0) ∧ decodeTableWord 8 0x11 = some (.sRunByte 0) ∧
      decodeTableWord 32 0x020071D1 = some (.rspTableB 0) ∧ decodeTableWord 32 0xFE04FFFF = some .sendDownWake ∧
      decodeTableWord 40 0x7205711107 = some .sendDownReadTableA ∧
      decodeTableWord 8 0x3A = some (.sendUpReport []) ∧ decodeTableWord 16 0x0300 = none := by decide

/-! ### Placing an operation -/

theorem test_placed_forceReinit :
    (seen (step (State.reset.withFetchWord 16 0x0200))).map (·.regs) = some ⟨.wake, 0, 0, .idle, 0, 0⟩ := by decide

/-- The tick of S_RUN_TICK passes the throttle. -/
theorem test_placed_run_tick :
    (seen (step (State.reset.withFetchWord 8 0x10))).map (·.regs) = some ⟨.run, 0, 1, .idle, 0, 0⟩ := by decide

/-- The message of RSP_TABLE_B leads to RetryTableA. -/
theorem test_placed_table_b :
    (seen (step (State.reset.withFetchWord 32 0x020571D1))).map (·.regs) =
      some ⟨.retryTableA, 0, 0, .idle, 0, 0⟩ := by decide

/-! ### Events -/

/-- V37, one tick of it. -/
theorem test_tick_swallowed :
    seen (exec (.evTick 0) (coreAt .run 48 0 .idle 0 0 [])) =
      some ⟨⟨.run, 49, 0, .idle, 0, 0⟩, [.returned .cont]⟩ := by decide

/-- V39: 6 exceeds 5. -/
theorem test_tick_expires :
    seen (exec (.evTick 0) (coreAt .run 49 5 .idle 0 0 [])) =
      some ⟨⟨.run, 0, 6, .idle, 0, 0⟩, [.up Config.reference.diagReport, .returned .needsFullReinit]⟩ := rfl

/-- E1, the fifth byte, at V49's counters. -/
theorem test_byte_completes_e1 :
    seen (exec (.evByte 0x77) almostE1) =
      some ⟨⟨.run, 49, 0, .idle, 0, 0⟩,
        [.up [':', '0', '2', '0', '5', '7', '1', '1', '1', '7', '7'], .down [0x72, 0x05, 0x71, 0xD1, 0x47],
          .returned .cont]⟩ := by decide

/-- V46, the fifth byte: the error is silent. -/
theorem test_byte_with_bad_checksum :
    seen (exec (.evByte 0x78) (coreAt .run 30 2 .readingData 4 5 bufE1)) =
      some ⟨⟨.retryTableA, 30, 2, .idle, 0, 0⟩, [.returned .cont]⟩ := by decide

/-- V27: the Framer keeps its partial message. -/
theorem test_forceReinit_keeps_framer :
    seen (exec (.evForceReinit 0) (coreAt .run 0 0 .readingData 3 5 [(0, 0x02), (1, 0x05), (2, 0x71)])) =
      some ⟨⟨.wake, 0, 0, .readingData, 3, 5⟩, [.returned .cont]⟩ := by decide

/-- Two events from reset, one step each. -/
theorem test_step_takes_events_in_order :
    seen (core.run 2 (State.started Config.reference [0x200, 0x000])) =
      some ⟨⟨.init, 0, 0, .idle, 0, 0⟩,
        [.returned .cont, .down [0xFE, 0x04, 0xFF, 0xFF], .returned .cont]⟩ := by decide

/-! ### Session rows -/

/-- V26, from LineBreak. -/
theorem test_s_forceReinit :
    seen (exec (.sForceReinit .lineBreak) (coreAt .lineBreak 7 2 .idle 0 0 [])) =
      some ⟨⟨.wake, 0, 0, .idle, 0, 0⟩, []⟩ := by decide

/-- V36: the 50th tick passes. -/
theorem test_s_throttle_passes :
    seen (exec (.sThrottle .run) (coreAt .run 49 0 .idle 0 0 [])) = some ⟨⟨.run, 0, 0, .idle, 0, 0⟩, []⟩ ∧
      value (exec (.sThrottle .run) (coreAt .run 49 0 .idle 0 0 [])) = some .nothing := by decide

/-- V42: the 11th is swallowed. -/
theorem test_s_throttle_swallows :
    seen (exec (.sThrottle .retryTableA) (coreAt .retryTableA 10 2 .idle 0 0 [])) =
      some ⟨⟨.retryTableA, 11, 2, .idle, 0, 0⟩, []⟩ := by decide

/-- V28. -/
theorem test_s_idle :
    seen (exec (.sIdleAny .byteReceived 0x02) (coreAt .idle 0 0 .idle 0 0 [])) =
      some ⟨⟨.idle, 0, 0, .idle, 0, 0⟩, []⟩ := by decide

/-- V29. -/
theorem test_s_linebreak :
    seen (exec (.sLinebreakAny .tick 0) (coreAt .lineBreak 0 0 .idle 0 0 [])) =
      some ⟨⟨.lineBreak, 0, 0, .idle, 0, 0⟩, []⟩ := by decide

/-- V30. -/
theorem test_s_wake_tick :
    seen (exec .sWakeTick (coreAt .wake 0 0 .idle 0 0 [])) =
      some ⟨⟨.init, 0, 0, .idle, 0, 0⟩, [.down [0xFE, 0x04, 0xFF, 0xFF]]⟩ := by decide

/-- V31. -/
theorem test_s_init_tick :
    seen (exec .sInitTick (coreAt .init 0 0 .idle 0 0 [])) =
      some ⟨⟨.run, 0, 0, .idle, 0, 0⟩, [.down [0x72, 0x05, 0x00, 0xF0, 0x99]]⟩ := by decide

/-- V33, V34, V35, a byte of each. -/
theorem test_s_drop_byte :
    seen (exec (.sDropByteWake 0x02) (coreAt .wake 0 0 .idle 0 0 [])) = some ⟨⟨.wake, 0, 0, .idle, 0, 0⟩, []⟩ ∧
      seen (exec (.sDropByteInit 0x02) (coreAt .init 0 0 .idle 0 0 [])) = some ⟨⟨.init, 0, 0, .idle, 0, 0⟩, []⟩ ∧
      seen (exec (.sDropByteRetry 0x02) (coreAt .retryTableA 10 0 .idle 0 0 [])) =
        some ⟨⟨.retryTableA, 10, 0, .idle, 0, 0⟩, []⟩ := by decide

/-- V38: 5 does not exceed 5. -/
theorem test_s_run_tick_quiet :
    seen (exec .sRunTick (coreAt .run 0 4 .idle 0 0 [])) = some ⟨⟨.run, 0, 5, .idle, 0, 0⟩, []⟩ := by decide

/-- V40: the count stays at 6. -/
theorem test_s_run_tick_saturates :
    seen (exec .sRunTick (coreAt .run 0 6 .idle 0 0 [])) =
      some ⟨⟨.run, 0, 6, .idle, 0, 0⟩, [.up Config.reference.diagReport]⟩ := rfl

/-- V45, the second byte. -/
theorem test_s_run_byte_bad_length :
    seen (exec (.sRunByte 0x00) (coreAt .run 30 2 .readingLength 1 0 [(0, 0x02)])) =
      some ⟨⟨.retryTableA, 30, 2, .idle, 0, 0⟩, []⟩ := by decide

/-- V48, the third byte. -/
theorem test_s_run_byte_partial :
    seen (exec (.sRunByte 0x71) (coreAt .run 5 1 .readingData 2 5 [(0, 0x02), (1, 0x05)])) =
      some ⟨⟨.run, 5, 1, .readingData, 3, 5⟩, []⟩ := by decide

/-- V41. -/
theorem test_s_retry_tick :
    seen (exec .sRetryTick (coreAt .retryTableA 0 2 .idle 0 0 [])) =
      some ⟨⟨.run, 0, 0, .idle, 0, 0⟩, [.down [0x72, 0x05, 0x71, 0x11, 0x07]]⟩ := by decide

/-- V44: the counter is reset under `TICK_RESET_ON_OK`. -/
theorem test_s_run_ok_resets_ticks :
    seen (exec .sRunOk
        { coreAt .run 12 4 .idle 0 0 (buf5 0x02 0x71 0xD1 0xB7) with
          cfg := { Config.reference with tickResetOnOk := true } }) =
      some ⟨⟨.retryTableA, 0, 0, .idle, 0, 0⟩, [.up [':', '0', '2', '0', '5', '7', '1', 'D', '1', 'B', '7']]⟩ := by
  decide

/-- V43: it is not under the default. -/
theorem test_s_run_ok_keeps_ticks :
    seen (exec .sRunOk (coreAt .run 12 4 .idle 0 0 (buf5 0x02 0x00 0x11 0xE8))) =
      some ⟨⟨.run, 12, 0, .idle, 0, 0⟩, [.down [0x72, 0x05, 0x71, 0x11, 0x07]]⟩ := by decide

/-- V46. -/
theorem test_s_run_err :
    seen (exec .sRunErr (coreAt .run 30 2 .idle 0 0 [])) = some ⟨⟨.retryTableA, 30, 2, .idle, 0, 0⟩, []⟩ := by decide

/-- V47. -/
theorem test_s_run_err_silent :
    seen (exec .sRunErr
        { coreAt .run 30 2 .idle 0 0 [] with cfg := { Config.reference with errPolicy := .stayInRun } }) =
      some ⟨⟨.run, 30, 2, .idle, 0, 0⟩, []⟩ := by decide

/-- V48. -/
theorem test_s_run_none :
    seen (exec .sRunNone (coreAt .run 5 1 .readingData 3 5 [])) = some ⟨⟨.run, 5, 1, .readingData, 3, 5⟩, []⟩ := by
  decide

/-! ### Framer rows -/

/-- E1, the first byte, over a stale cell. -/
theorem test_feed_addr :
    bufferAfter 2 (exec (.feedAddr 0x02) (coreAt .run 0 0 .idle 0 0 [(0, 0xAA), (1, 0x03)])) = some [0x02, 0x03] ∧
      seen (exec (.feedAddr 0x02) running) = some ⟨⟨.run, 0, 0, .readingLength, 1, 0⟩, []⟩ := by decide

/-- V3: length 32, the largest. -/
theorem test_feed_len_ok :
    seen (exec (.feedLenOk 0x20) (coreAt .run 0 0 .readingLength 1 0 [(0, 0x10)])) =
      some ⟨⟨.run, 0, 0, .readingData, 2, 0x20⟩, []⟩ := by decide

/-- V7: length 33. -/
theorem test_feed_len_bad :
    seen (exec (.feedLenBad 0x21) (coreAt .run 0 0 .readingLength 1 0 [(0, 0x02)])) =
      some ⟨⟨.run, 0, 0, .idle, 0, 0⟩, []⟩ ∧
      value (exec (.feedLenBad 0x21) (coreAt .run 0 0 .readingLength 1 0 [(0, 0x02)])) = some (.framer .err) := by
  decide

/-- V10: the checksum byte is 0x00, and unlists nothing else. -/
theorem test_feed_data_zero_checksum :
    value (exec (.feedData 0x00) (coreAt .run 0 0 .readingData 2 3 [(0, 0xFD), (1, 0x03), (2, 0x55)])) =
      some (.framer .ok) ∧
      bufferAfter 3 (exec (.feedData 0x00) (coreAt .run 0 0 .readingData 2 3 [(0, 0xFD), (1, 0x03), (2, 0x55)])) =
        some [0xFD, 0x03, 0x00] := by decide

/-- V9: the checksum is off by one. -/
theorem test_feed_data_bad_checksum :
    value (exec (.feedData 0x78) (coreAt .run 0 0 .readingData 4 5 bufE1)) = some (.framer .err) := by decide

/-- V24. -/
theorem test_reset_keeps_buffer :
    bufferAfter 3 (exec .reset (coreAt .run 0 0 .readingData 3 5 [(0, 0x02), (1, 0x05), (2, 0x71)])) =
      some [0x02, 0x05, 0x71] ∧
      seen (exec .reset (coreAt .run 0 0 .readingData 3 5 [(0, 0x02), (1, 0x05), (2, 0x71)])) =
        some ⟨⟨.run, 0, 0, .idle, 0, 0⟩, []⟩ := by decide

/-- E1: 0x100 - 0x89 = 0x77. -/
theorem test_checksum_row :
    value (exec .checksum (coreAt .run 0 0 .readingData 4 5 bufE1)) = some (.byte 0x77) := by decide

/-- V11: carries beyond 8 bits are dropped. -/
theorem test_checksum_drops_carries : checksum [0xFF, 0x04, 0xFF] = 0xFE := by decide

/-- An access past the buffer is a fault (R51; notes/assumptions/9.md). -/
theorem test_cell_out_of_range :
    (match exec (.feedData 0) (coreAt .run 0 0 .readingData 32 40 []) with
      | .fault f => some f
      | .next _ => none
      | .refused _ => none) = some Fault.cellOutOfRange := by decide

/-! ### Responder rows -/

/-- V51. -/
theorem test_rsp_init_ack :
    (seen (exec (.rspInitAck 0x04 0xFA) running)).map (·.out) = some [.down [0x72, 0x05, 0x71, 0x11, 0x07]] ∧
      value (exec (.rspInitAck 0x04 0xFA) running) = some (.next .run) := by decide

/-- V58: the report alone. -/
theorem test_rsp_table_data :
    (seen (exec (.rspTableData 0x05 0x22) (coreAt .run 20 3 .idle 0 0 (buf5 0x02 0x71 0x22 0x66)))).map (·.out) =
      some [.up [':', '0', '2', '0', '5', '7', '1', '2', '2', '6', '6']] := by decide

/-- V54. -/
theorem test_rsp_table_a :
    (seen (exec (.rspTableA 0x05) (coreAt .run 20 3 .idle 0 0 (buf5 0x02 0x71 0x11 0x77)))).map (·.out) =
      some [.up [':', '0', '2', '0', '5', '7', '1', '1', '1', '7', '7'], .down [0x72, 0x05, 0x71, 0xD1, 0x47]] ∧
      value (exec (.rspTableA 0x05) (coreAt .run 20 3 .idle 0 0 (buf5 0x02 0x71 0x11 0x77))) =
        some (.next .run) := by decide

/-- V56. -/
theorem test_rsp_table_b :
    (seen (exec (.rspTableB 0x05) (coreAt .run 20 3 .idle 0 0 (buf5 0x02 0x71 0xD1 0xB7)))).map (·.out) =
      some [.up [':', '0', '2', '0', '5', '7', '1', 'D', '1', 'B', '7']] ∧
      value (exec (.rspTableB 0x05) (coreAt .run 20 3 .idle 0 0 (buf5 0x02 0x71 0xD1 0xB7))) =
        some (.next .retryTableA) := by decide

/-- V59: the table-id position holds the checksum. -/
theorem test_rsp_table_other :
    (seen (exec (.rspTableOther 0x04 0x89)
        (coreAt .run 20 3 .idle 0 0 [(0, 0x02), (1, 0x04), (2, 0x71), (3, 0x89), (4, 0x55)]))).map (·.out) =
      some [.up [':', '0', '2', '0', '4', '7', '1', '8', '9']] ∧
      value (exec (.rspTableOther 0x04 0x89)
        (coreAt .run 20 3 .idle 0 0 [(0, 0x02), (1, 0x04), (2, 0x71), (3, 0x89), (4, 0x55)])) =
        some (.next .run) := by decide

/-- V60. -/
theorem test_rsp_other :
    seen (exec (.rspOther 0x04 0x7F 0x7B) running) = some ⟨⟨.run, 0, 0, .idle, 0, 0⟩, []⟩ ∧
      value (exec (.rspOther 0x04 0x7F 0x7B) running) = some (.next .run) := by decide

/-- V61a: the core's own Read-Table-A frame. -/
theorem test_non_response :
    seen (exec (.nonResponse 0x72 0x05 0x71 0x11) running) = some ⟨⟨.run, 0, 0, .idle, 0, 0⟩, []⟩ := by decide

/-- V61: a message of length 3 is of class RSP_OTHER; the stale table id takes no part. -/
theorem test_short_message :
    mkClass (State.mkKey (coreAt .run 20 3 .idle 0 0 [(0, 0x02), (1, 0x03), (2, 0xFB), (3, 0x11)])) =
      .rspOther 0x03 0xFB 0x11 := by decide

/-! ### Output rows -/

/-- E8. -/
theorem test_send_down :
    (seen (exec .sendDownWake running)).map (·.out) = some [.down [0xFE, 0x04, 0xFF, 0xFF]] ∧
      (seen (exec .sendDownInit running)).map (·.out) = some [.down [0x72, 0x05, 0x00, 0xF0, 0x99]] ∧
      (seen (exec .sendDownReadTableA running)).map (·.out) = some [.down [0x72, 0x05, 0x71, 0x11, 0x07]] ∧
      (seen (exec .sendDownReadTableB running)).map (·.out) = some [.down [0x72, 0x05, 0x71, 0xD1, 0x47]] := by decide

/-- V63. -/
theorem test_send_up_report :
    (seen (exec (.sendUpReport [0x02, 0x04, 0x71, 0x89]) running)).map (·.out) =
      some [.up [':', '0', '2', '0', '4', '7', '1', '8', '9']] := by decide

/-- The configured text goes up, the open one of the reference parameters included. -/
theorem test_send_up_diag :
    (seen (exec .sendUpDiag { running with cfg := otherConfig })).map (·.out) = some [.up ['b', 'y', 'e']] := by
  decide

theorem test_send_up_diag_open :
    (seen (exec .sendUpDiag running)).map (·.out) = some [.up Config.reference.diagReport] := rfl

theorem test_send_up :
    (seen (exec (.sendUp ['o', 'k']) running)).map (·.out) = some [.up ['o', 'k']] := by decide

/-- Uppercase, high nibble first (R173). -/
theorem test_hex2 :
    value (exec (.hex2 0xD1) running) = some (.chars ['D', '1']) ∧
      value (exec (.hex2 0x0A) running) = some (.chars ['0', 'A']) := by decide

/-! ### Witnesses: concrete inputs that meet every hypothesis of a statement, each clause at its boundaries -/

/-- A buffer of 32 cells, the longest message, its length byte 0x20. -/
def buf32 : Memory := [(0, 0x10), (1, 0x20), (31, 0x3A)]

/-- Run, one tick before the throttle passes and one silent period before the watchdog expires. -/
def beforeExpiry : State := coreAt .run 49 5 .idle 0 0 []

theorem test_witness_PowerOnMeetsInvariant :
    Config.reference.Admitted ∧ otherConfig.Admitted ∧ (Config.mk .retryTableA .run false 1 0 []).Admitted := by decide

theorem test_witness_StepKeepsInvariant :
    ({ almostE1 with inbox := [evWord .byteReceived 0x77] } : State).Inv ∧
      ∃ t, step { almostE1 with inbox := [evWord .byteReceived 0x77] } = .next t :=
  ⟨by decide, _, rfl⟩

/-- A state of the invariant in the middle of a message, and a run from power-on; both reasons at the ends of the
admitted range. -/
theorem test_witness_RunsNeverFault :
    ({ almostE1 with inbox := [0x2FF] } : State).Inv ∧ (0x2FF#10).extractLsb' 8 2 ≠ 3#2 ∧
      Reachable (State.started Config.reference [0x200, 0x000]) ∧
      (State.started Config.reference [0x200, 0x000]).inbox = 0x200 :: [0x000] ∧
      (0x000#10).extractLsb' 8 2 ≠ 3#2 ∧ (0x200#10).extractLsb' 8 2 ≠ 3#2 :=
  ⟨by decide, by decide, .started _ _ (by decide), rfl, by decide, by decide⟩

/-- An arm, a stage, a report, and the diagnostic row with a text that is no report. -/
theorem test_witness_DecodeEncodeAgree :
    ((Instr.feedLenOk 0x20).WellFormed otherConfig = true ∧
        encode otherConfig (.feedLenOk 0x20) = some (.fk (fkWord .readingLength 0x20)) ∧
        Instr.feedLenOk 0x20 ≠ .sendUpDiag) ∧
      ((Instr.sThrottle .wake).WellFormed otherConfig = true ∧
        encode otherConfig (.sThrottle .wake) = some (.sk (skWord .wake .tick) 0) ∧
        (Instr.sThrottle .wake).isStage = true) ∧
      encode otherConfig (.sendUpReport [0x02]) = some (.up [':', '0', '2']) ∧
      encode otherConfig .sendUpDiag = some (.up ['b', 'y', 'e']) ∧ readReport otherConfig.diagReport = none := by decide

theorem test_witness_EncodeDecodeAgree :
    (decode (.fk 0x121) = .instr (.feedLenBad 0x21) ∧ Instr.feedLenBad 0x21 ≠ .sendUpDiag) ∧
      decode (.sk 0x10 0x42) = .instr .sRunTick ∧ decode (.up [':', '0', '2']) = .instr (.sendUpReport [0x02]) ∧
      decode (.up otherConfig.diagReport) = .instr .sendUpDiag := by decide

theorem test_witness_StepRunsDecodedEvent :
    (State.started Config.reference [0x177, 0x000]).inbox = 0x177 :: [0x000] ∧
      decode (.ev 0x177) = .instr (.evByte 0x77) := by decide

theorem test_witness_StepWaitsAndRefusesReservedReason :
    State.reset.inbox = [] ∧ (State.started Config.reference [0x300]).inbox = (3#2 ++ (0x00 : Byte)) :: [] ∧
      (State.started Config.reference [0x3FF]).inbox = (3#2 ++ (0xFF : Byte)) :: [] := by decide

/-- In the three states of the Framer in Run, and outside Run. -/
theorem test_witness_ReceivedByteCompletes :
    (running.FramerInv ∧ running.sstate = .run) ∧
      (coreAt .run 0 0 .readingLength 1 0 [(0, 0x02)]).FramerInv ∧ almostE1.FramerInv ∧ almostE1.sstate = .run :=
  ⟨by decide, by decide, by decide, by decide⟩

theorem test_witness_ReceivedByteCompletes_at_the_ends :
    (coreAt .run 0 0 .readingData 31 32 buf32).FramerInv ∧ State.reset.FramerInv ∧ State.reset.sstate ≠ .run :=
  ⟨by decide, by decide, by decide⟩

theorem test_witness_RunByteCompletes :
    running.FramerInv ∧ almostE1.FramerInv ∧ (coreAt .run 0 0 .readingData 2 3 [(0, 0x02), (1, 0x03)]).FramerInv := by
  decide

/-- A throttled tick that passes, an unthrottled tick, a byte and a ForceReinit. -/
theorem test_witness_EventRunsItsKeyRow :
    (throttled beforeExpiry.cfg.throttleFirst beforeExpiry.sstate = true ∧
        beforeExpiry.cfg.tickThreshold ≤ (beforeExpiry.tickCount + 1).toNat ∧
        decode (.sk (beforeExpiry.skKey .tick) 0) = .instr .sRunTick) ∧
      (∃ t, exec .sRunTick { beforeExpiry with tickCount := 0 } = .next t) ∧
      (throttled Config.reference.throttleFirst .wake = false ∧
        decode (.sk ((coreAt .wake 0 0 .idle 0 0 []).skKey .tick) 0) = .instr .sWakeTick) ∧
      (∃ t, exec .sWakeTick (coreAt .wake 0 0 .idle 0 0 []) = .next t) ∧
      decode (.sk (almostE1.skKey .byteReceived) 0x77) = .instr (.sRunByte 0x77) ∧
      (∃ t, exec (.sRunByte 0x77) almostE1 = .next t) ∧
      decode (.sk (almostE1.skKey .forceReinit) 0) = .instr (.sForceReinit .run) :=
  ⟨by decide, ⟨_, rfl⟩, by decide, ⟨_, rfl⟩, by decide, ⟨_, rfl⟩, by decide⟩

theorem test_witness_IdleDoesNothing : State.reset.sstate = .idle := rfl

theorem test_witness_LineBreakDoesNothing : (coreAt .lineBreak 0 0 .idle 0 0 []).sstate = .lineBreak := rfl

theorem test_witness_BytesOutsideRunAreDropped :
    ((coreAt .wake 0 0 .idle 0 0 []).sstate = .wake) ∧ ((coreAt .init 0 0 .idle 0 0 []).sstate = .init) ∧
      ((coreAt .retryTableA 10 0 .idle 0 0 []).sstate = .retryTableA) := ⟨rfl, rfl, rfl⟩

/-- The last tick swallowed and the tick that passes, at thresholds 50 and 255. -/
theorem test_witness_ThrottleCountsTicks :
    ((coreAt .run 48 0 .idle 0 0 []).tickCount.toNat + 1 < Config.reference.tickThreshold ∧
        Config.reference.tickThreshold ≤ 255) ∧
      (253#8).toNat + 1 < otherConfig.tickThreshold ∧ otherConfig.tickThreshold ≤ 255 ∧
      Config.reference.tickThreshold = beforeExpiry.tickCount.toNat + 1 ∧
      otherConfig.tickThreshold = (254#8).toNat + 1 ∧
      throttled Config.reference.throttleFirst .run = true ∧ throttled otherConfig.throttleFirst .wake = true := by
  decide

/-- Both sides of the watchdog's limit. -/
theorem test_witness_RunTickCountsSilence :
    Config.reference.Admitted ∧ (4#8).toNat < Config.reference.watchdogMax ∧
      Config.reference.watchdogMax ≤ (5#8).toNat ∧ otherConfig.Admitted ∧ (253#8).toNat < otherConfig.watchdogMax ∧
      otherConfig.watchdogMax ≤ (254#8).toNat ∧ otherConfig.watchdogMax ≤ (255#8).toNat := by decide

theorem test_witness_RunOkAdoptsTheResponder :
    (Memory.read (coreAt .run 0 0 .idle 0 0 buf32).buf 1).toNat ≤ 32 ∧
      (Memory.read (coreAt .run 0 0 .idle 0 0 (buf5 0x02 0x71 0xD1 0xB7)).buf 1).toNat ≤ 32 := by decide

theorem test_witness_RunErrFollowsPolicy :
    Config.reference.errPolicy = .retryTableA ∧ otherConfig.errPolicy = .stayInRun := ⟨rfl, rfl⟩

theorem test_witness_FeedAcceptsLegalLength :
    (3 ≤ (0x03 : Byte).toNat ∧ (0x03 : Byte).toNat ≤ 32) ∧ 3 ≤ (0x20 : Byte).toNat ∧ (0x20 : Byte).toNat ≤ 32 := by
  decide

theorem test_witness_FeedRejectsIllegalLength :
    ((0x02 : Byte).toNat < 3 ∨ 32 < (0x02 : Byte).toNat) ∧ ((0x21 : Byte).toNat < 3 ∨ 32 < (0x21 : Byte).toNat) := by
  decide

/-- A byte that is not the last, the last, and both at the ends of the buffer. -/
theorem test_witness_FeedAppendsAndVerifies :
    (2 ≤ (2#6).toNat ∧ (2#6).toNat + 1 ≤ (4#8).toNat ∧ (4#8).toNat ≤ 32 ∧ (2#6).toNat + 1 < (4#8).toNat) ∧
      (2 ≤ almostE1.index.toNat ∧ almostE1.index.toNat + 1 ≤ almostE1.length.toNat ∧ almostE1.length.toNat ≤ 32 ∧
        almostE1.index.toNat + 1 = almostE1.length.toNat) ∧
      (2#6).toNat + 1 = (3#8).toNat ∧ (31#6).toNat + 1 = (32#8).toNat ∧ (32#8).toNat ≤ 32 := by decide

theorem test_witness_ChecksumRowReturnsNegatedSum :
    almostE1.length.toNat ≤ 32 ∧ (coreAt .run 0 0 .idle 0 32 buf32).length.toNat ≤ 32 := by decide

/-- The shortest and the longest message. -/
theorem test_witness_FramerVerdictOnMessage :
    running.Fresh ∧ ((0x03 : Byte).toNat = ([] : Frame).length + 3 ∧ ([] : Frame).length ≤ 29) ∧
      (0x20 : Byte).toNat = (List.replicate 29 (0x00 : Byte)).length + 3 ∧
      (List.replicate 29 (0x00 : Byte)).length ≤ 29 := by decide

theorem test_witness_ChecksumByteDecidesTheVerdict :
    running.Fresh ∧ (0x05 : Byte).toNat = ([0x71, 0x11] : Frame).length + 3 ∧ ([0x71, 0x11] : Frame).length ≤ 29 ∧
      (0x03 : Byte) ≠ 0x02 ∧ ([0x71, 0x11] : Frame) = [0x71] ++ 0x11 :: [] ∧ (0x10 : Byte) ≠ 0x11 := by decide

theorem test_witness_FramerIsDeterministic :
    running.Fresh ∧ (coreAt .retryTableA 10 2 .idle 0 0 buf32).Fresh := by decide

/-- The four rows of table data share their condition. -/
theorem test_witness_TableDataIsReported :
    (Memory.read (buf5 0x02 0x71 0x22 0x66) 1).toNat ≤ 32 ∧ (Memory.read buf32 1).toNat ≤ 32 := by decide

theorem test_witness_TableARequestsTableB : (Memory.read (buf5 0x02 0x71 0x11 0x77) 1).toNat ≤ 32 := by decide

theorem test_witness_TableBClosesTheCycle : (Memory.read (buf5 0x02 0x71 0xD1 0xB7) 1).toNat ≤ 32 := by decide

theorem test_witness_OtherTableIsOnlyReported : (Memory.read (buf5 0x02 0x71 0x22 0x66) 1).toNat ≤ 32 := by decide

theorem test_witness_ResponderMutatesNothing :
    decode (.mk 0x02057111) = .instr (.rspTableA 0x05) ∧
      stageOf Config.reference (.mk 0x02057111) = some (.rspTableData 0x05 0x11) ∧
      (∃ t, exec (.rspTableA 0x05) (coreAt .run 20 3 .idle 0 0 (buf5 0x02 0x71 0x11 0x77)) = .next t) ∧
      ∃ t, exec (.rspTableData 0x05 0x11) (coreAt .run 20 3 .idle 0 0 (buf5 0x02 0x71 0x11 0x77)) = .next t :=
  ⟨by decide, by decide, ⟨_, rfl⟩, _, rfl⟩

/-- V61, with a stale Table-A id in the fourth cell. -/
theorem test_witness_ShortMessageIgnoresStaleCell :
    Memory.read [(0, 0x02), (1, 0x03), (2, 0xFB), (3, 0x11)] 0 = 0x02 ∧
      Memory.read [(0, 0x02), (1, 0x03), (2, 0xFB), (3, 0x11)] 1 = 0x03 ∧
      Memory.read [(0, 0x02), (1, 0x03), (2, 0xFB), (3, 0x11)] 2 = checksum [0x02, 0x03] := by decide

theorem test_witness_ReportIsColonAndDigits :
    ([0x02, 0xD1] : Frame)[0]? = some 0x02 ∧ ([0x02, 0xD1] : Frame)[1]? = some 0xD1 := by decide

theorem test_witness_EventHandsOverActionsThenSignal :
    (∃ t, exec (eventOf .tick 0) beforeExpiry = .next t) ∧
      (∃ t, exec (eventOf .byteReceived 0x77) almostE1 = .next t) ∧
      ∃ t, exec (eventOf .forceReinit 0) almostE1 = .next t := ⟨⟨_, rfl⟩, ⟨_, rfl⟩, _, rfl⟩

theorem test_witness_StreamsHoldTemplatesAndReports :
    (∃ t, step { almostE1 with inbox := [0x177] } = .next t) ∧
      ∃ t, step { beforeExpiry with inbox := [0x000] } = .next t := ⟨⟨_, rfl⟩, _, rfl⟩

theorem test_witness_FullReinitExactlyOnWatchdog :
    beforeExpiry.cfg.Admitted ∧ (∃ t, exec (eventOf .tick 0) beforeExpiry = .next t) ∧
      (beforeExpiry.sstate = .run ∧ beforeExpiry.cfg.tickThreshold ≤ (beforeExpiry.tickCount + 1).toNat ∧
        beforeExpiry.cfg.watchdogMax ≤ beforeExpiry.watchdogCount.toNat) :=
  ⟨by decide, ⟨_, rfl⟩, by decide⟩

/-- Both causes: lengths 2 and 33, and a wrong checksum in the shortest message and in that of V46. -/
theorem test_witness_FramingErrorEntry :
    (coreAt .run 30 2 .readingLength 1 0 [(0, 0x02)]).sstate = .run ∧
      (coreAt .run 30 2 .readingLength 1 0 [(0, 0x02)]).fstate = .readingLength ∧
      ((0x02 : Byte).toNat < 3 ∧ 32 < (0x21 : Byte).toNat) ∧
      ((coreAt .run 30 2 .readingData 4 5 bufE1).sstate = .run ∧
        (coreAt .run 30 2 .readingData 4 5 bufE1).fstate = .readingData) ∧
      (3 ≤ (5#8).toNat ∧ (5#8).toNat ≤ 32 ∧ (4#6).toNat + 1 = (5#8).toNat ∧
        checksum (cells bufE1 0 ((5#8).toNat - 1)) ≠ 0x78) ∧
      3 ≤ (3#8).toNat ∧ (2#6).toNat + 1 = (3#8).toNat ∧
        checksum (cells [(0, 0x02), (1, 0x03)] 0 ((3#8).toNat - 1)) ≠ 0xFC := by decide

/-- V39 and V40: the first expiry and a repeated one. -/
theorem test_witness_LivenessFailureEntry :
    (beforeExpiry.cfg.Admitted ∧ beforeExpiry.sstate = .run ∧
        beforeExpiry.tickCount.toNat + 1 = beforeExpiry.cfg.tickThreshold ∧
        beforeExpiry.cfg.watchdogMax ≤ beforeExpiry.watchdogCount.toNat ∧
        beforeExpiry.watchdogCount.toNat ≤ beforeExpiry.cfg.watchdogMax + 1) ∧
      Config.reference.watchdogMax ≤ (6#8).toNat ∧ (6#8).toNat ≤ Config.reference.watchdogMax + 1 := by decide

/-- The first and the last quiet tick of 300. -/
theorem test_witness_SilenceExpiresTheWatchdog :
    running.cfg.Admitted ∧ running.sstate = .run ∧ running.tickCount = 0 ∧ running.watchdogCount = 0 ∧ 0 < 1 ∧
      299 < running.cfg.tickThreshold * (running.cfg.watchdogMax + 1) := by decide

/-- The statements about every operation that answers. -/
theorem test_witness_OnlyFeedWritesTheBuffer :
    (∃ t, exec (.feedData 0x77) almostE1 = .next t) ∧ (∃ t, exec (.evByte 0x77) almostE1 = .next t) ∧
      ∃ t, exec .sRunOk (coreAt .run 12 4 .idle 0 0 (buf5 0x02 0x71 0xD1 0xB7)) = .next t :=
  ⟨⟨_, rfl⟩, ⟨_, rfl⟩, _, rfl⟩

theorem test_witness_FramerRegistersChangeOnlyInFeedAndReset :
    (∃ t, exec (.evByte 0x02) State.reset = .next t) ∧ ∃ t, exec .checksum almostE1 = .next t :=
  ⟨⟨_, rfl⟩, _, rfl⟩

theorem test_witness_SessionRegistersChangeOnlyInSession :
    (∃ t, exec (.rspInitAck 0x04 0xFA) running = .next t) ∧ ∃ t, exec .sWakeTick State.reset = .next t :=
  ⟨⟨_, rfl⟩, _, rfl⟩

theorem test_witness_ParametersNeverChange :
    (∃ t, exec (.evForceReinit 0) almostE1 = .next t) ∧ ∃ t, step (State.started otherConfig [0x000]) = .next t :=
  ⟨⟨_, rfl⟩, _, rfl⟩

end Sys2Proof.Tests
end

section
/-! What a step hands to the host (20_memory.md R55, R56): every output it appends is a template, the report of the
message in the buffer, the configured diagnostic text, or the signal of the call.  `HandsOver` says so of two states;
each operation that a step makes meets it, and so does the step. -/

namespace Sys2Proof.Machine

/-! ### What one step can do -/

/-- An event word that decodes is one of the three events (R73). -/
theorem decodeEv_eq_instr {w : BitVec 10} {i : Instr} (h : decodeEv w = .instr i) : ∃ r b, i = eventOf r b := by
  unfold decodeEv at h
  split at h <;> cases h
  · exact ⟨.tick, _, rfl⟩
  · exact ⟨.byteReceived, _, rfl⟩
  · exact ⟨.forceReinit, _, rfl⟩

/-- A step waits with an empty inbox, or takes the next word out and runs the event it decodes to (R209, R91). -/
theorem step_cases {s t : State} (h : step s = .next t) :
    (s.inbox = [] ∧ t = s) ∨
    ∃ w rest r b, s.inbox = w :: rest ∧ decode (.ev w) = .instr (eventOf r b) ∧
      exec (eventOf r b) { s with inbox := rest } = .next t := by
  cases hin : s.inbox with
  | nil => exact .inl ⟨rfl, by simpa [step, fetch, hin, eq_comm] using h⟩
  | cons w rest =>
    simp only [step, fetch, hin] at h
    split at h
    case h_1 i hd =>
      obtain ⟨r, b, rfl⟩ := decodeEv_eq_instr hd
      exact .inr ⟨w, rest, r, b, rfl, hd, h⟩
    case h_2 => cases h

/-- `feed` hands nothing over and keeps the parameters (R42). -/
theorem feed_trace_cfg {b : Byte} {s u : State} {r : FResult} (h : feed b s = .next (u, r)) :
    u.trace = s.trace ∧ u.cfg = s.cfg := by
  rw [feed_frame h]
  exact ⟨rfl, rfl⟩

/-! ### The outputs a step may append -/

/-- What R55 and R56 allow in the output streams of a core built with `c` whose buffer holds the message `msg`. -/
def Output.Allowed (c : Config) (msg : Option Frame) : Output → Prop
  | .down f => ∃ k, f = rom k
  | .up text => (∃ m, msg = some m ∧ text = report m) ∨ text = c.diagReport
  | .returned _ => True

/-- From `s` to `t` the trace only grows, and by allowed outputs: by reports of the message that `t` holds, and
otherwise by what the parameters of `s` fix.  It reads no register, so an update of registers keeps it. -/
def HandsOver (s t : State) : Prop :=
  ∃ new, t.trace = s.trace ++ new ∧ ∀ o ∈ new, o.Allowed s.cfg t.message

namespace HandsOver

theorem of_trace_eq {s t : State} (h : t.trace = s.trace) : HandsOver s t :=
  ⟨[], by simpa using h, by simp⟩

theorem refl (s : State) : HandsOver s s := of_trace_eq rfl

/-- One more allowed output. -/
theorem emit {s t : State} (h : HandsOver s t) {o : Output} (ho : o.Allowed s.cfg t.message) :
    HandsOver s (emit o t) := by
  obtain ⟨new, ht, hnew⟩ := h
  refine ⟨new ++ [o], by simp [ht], fun p hp => ?_⟩
  rcases List.mem_append.mp hp with hp | hp
  · exact hnew p hp
  · rw [List.mem_singleton.mp hp]
    exact ho

theorem emit_template {s t : State} (h : HandsOver s t) (k : Template) :
    HandsOver s (Machine.emit (.down (rom k)) t) := h.emit ⟨k, rfl⟩

theorem emit_report {s t : State} (h : HandsOver s t) {m : Frame} (hm : t.message = some m) :
    HandsOver s (Machine.emit (.up (report m)) t) := h.emit (.inl ⟨m, hm, rfl⟩)

/-- An operation before it that hands nothing over and keeps the parameters. -/
theorem after_silent {s u t : State} (h : HandsOver u t) (hs : u.trace = s.trace ∧ u.cfg = s.cfg) :
    HandsOver s t := by
  obtain ⟨htr, hcfg⟩ := hs
  unfold HandsOver at h ⊢
  rwa [htr, hcfg] at h

end HandsOver

/-! ### The operations of a step -/

/-- The Responder hands over reports of the message and requests (R152 to R156). -/
theorem classify_handsOver {s u : State} {st : SState} (h : classify s = .next (u, st)) : HandsOver s u := by
  rcases classify_cases h with ⟨rfl, -⟩ | ⟨rfl, -⟩ | ⟨m, hm, rfl, -⟩ | ⟨m, hm, rfl, -⟩
  · exact .refl _
  · exact (HandsOver.refl s).emit_template .readTableA
  · exact ((HandsOver.refl s).emit_report hm).emit_template .readTableB
  · exact (HandsOver.refl s).emit_report hm

/-- A byte in Run hands over what the Responder does, when it completes a message (R128, R130). -/
theorem runByte_handsOver {b : Byte} {s t : State} {c : ContinueSignal} (h : runByte b s = .next (t, c)) :
    HandsOver s t := by
  obtain ⟨-, u, r, hf, hc⟩ := runByte_cases h
  have hsilent := feed_trace_cfg hf
  rcases hc with ⟨-, rfl⟩ | ⟨-, rfl⟩ | ⟨-, v, st, hcl, rfl⟩
  · exact .of_trace_eq hsilent.1
  · exact .of_trace_eq hsilent.1
  · exact (classify_handsOver hcl).after_silent hsilent

theorem byteArm_handsOver {b : Byte} {s t : State} {c : ContinueSignal} (h : byteArm b s = .next (t, c)) :
    HandsOver s t := by
  by_cases hr : s.sstate = .run
  · exact runByte_handsOver (byteArm_of_run b hr ▸ h)
  · rw [byteArm_of_not_run b hr] at h
    cases h
    exact .refl s

/-- The watchdog's arm hands over the diagnostic text or nothing (R133). -/
theorem runTick_handsOver (s : State) : HandsOver s (runTick s).1 := by
  rcases runTick_cases s with ⟨w, e, -⟩ | ⟨w, e, -⟩ <;> rw [e]
  · exact .of_trace_eq rfl
  · exact HandsOver.emit (t := { s with watchdogCount := w }) (.of_trace_eq rfl) (.inr rfl)

/-- A Tick's arm hands over the template of its state, or what the watchdog's arm does (R124 to R127, R133, R134). -/
theorem tickArm_handsOver {s t : State} {c : ContinueSignal} (h : tickArm s = .next (t, c)) : HandsOver s t := by
  unfold tickArm at h
  split at h
  case h_5 =>
    obtain rfl : (runTick s).1 = t := congrArg Prod.fst (Host.Outcome.next.inj h)
    exact runTick_handsOver s
  all_goals cases h
  · exact .refl s
  · exact .refl s
  · exact (HandsOver.refl s).emit_template .wake
  · exact (HandsOver.refl s).emit_template .init
  · exact (HandsOver.refl s).emit_template .readTableA

/-- The throttle hands nothing over; a Tick that passes it does what its arm does (R122). -/
theorem stepTick_handsOver {s t : State} {c : ContinueSignal} (h : stepTick s = .next (t, c)) : HandsOver s t := by
  rcases stepTick_cases s with ⟨-, -, e⟩ | ⟨-, -, e⟩ | ⟨-, e⟩ <;> rw [e] at h
  · cases h
    exact .of_trace_eq rfl
  · exact (tickArm_handsOver h).after_silent ⟨rfl, rfl⟩
  · exact tickArm_handsOver h

theorem sessionStep_handsOver {r : Reason} {b : Byte} {s t : State} {c : ContinueSignal}
    (h : sessionStep r b s = .next (t, c)) : HandsOver s t := by
  cases r with
  | tick => exact stepTick_handsOver h
  | byteReceived => exact byteArm_handsOver h
  | forceReinit =>
    cases h
    exact .of_trace_eq rfl

/-- An event is one call of `step`, whose signal is handed over last (R13, R120). -/
theorem exec_eventOf (r : Reason) (b : Byte) (s : State) :
    exec (eventOf r b) s = deliver (sessionStep r b s) := by
  cases r <;> rfl

theorem exec_eventOf_handsOver {r : Reason} {b : Byte} {s t : State} (h : exec (eventOf r b) s = .next t) :
    HandsOver s t := by
  rw [exec_eventOf] at h
  obtain ⟨u, c, hu, rfl⟩ := deliver_eq_next.mp h
  exact (sessionStep_handsOver hu).emit (o := .returned c) trivial

theorem step_handsOver {s t : State} (h : step s = .next t) : HandsOver s t := by
  rcases step_cases h with ⟨-, rfl⟩ | ⟨w, rest, r, b, -, -, he⟩
  · exact .refl t
  · exact (exec_eventOf_handsOver he).after_silent ⟨rfl, rfl⟩

/-- Settles O52: `step_handsOver`, read for each of the two streams. -/
theorem streamsHoldTemplatesAndReports : Obligations.StreamsHoldTemplatesAndReports := by
  intro s t h
  obtain ⟨new, htrace, hnew⟩ := step_handsOver h
  exact ⟨new, htrace, fun _ hf => hnew _ hf, fun _ htext => hnew _ htext⟩

end Sys2Proof.Machine
end

section
/-! The Framer's rows (40_framer.md R101 to R104), the checksum (R106) and determinism (R108): what each `feed` row
answers, one equation a row, and a simulation between two Framers that hold the same bytes of a message. -/

namespace Sys2Proof.Machine

/-! ### The checksum (R106) -/

theorem byteSum_append (m n : Frame) : byteSum (m ++ n) = byteSum m + byteSum n := by
  induction m with
  | nil => simp [byteSum]
  | cons b m ih => simp [byteSum, ih, Nat.add_assoc]

theorem byteSum_singleton (b : Byte) : byteSum [b] = b.toNat := rfl

theorem checksum_toNat (m : Frame) : (checksum m).toNat = (256 - byteSum m % 256) % 256 := by
  simp [checksum]

/-- Settles O33: the checksum is the one byte that negates the sum mod 256. -/
theorem checksumIffSumIsZero : Obligations.ChecksumIffSumIsZero := by
  intro m c
  have hc : c.toNat < 256 := c.isLt
  rw [← BitVec.toNat_inj, checksum_toNat, byteSum_append, byteSum_singleton]
  omega

/-! ### One equation for each `feed` row -/

/-- A write to a cell is read back, and no other cell changes. -/
theorem Memory.write_frame (m : Memory) (a : Nat) (v : Byte) :
    Memory.read (Memory.write m a v) a = v ∧
      ∀ c, c ≠ a → Memory.read (Memory.write m a v) c = Memory.read m c :=
  ⟨Memory.read_write_same m a v, fun _ h => Memory.read_write_other m v h⟩

theorem exec_feedAddr (b : Byte) (s : State) : exec (.feedAddr b) s =
    .next { putCell 0 b s with index := 1, fstate := .readingLength, ret := .framer .none } := rfl

theorem exec_feedLenOk (b : Byte) (s : State) : exec (.feedLenOk b) s =
    .next { putCell 1 b s with length := b, index := 2, fstate := .readingData, ret := .framer .none } := rfl

theorem exec_feedLenBad (b : Byte) (s : State) : exec (.feedLenBad b) s =
    .next { framerReset (putCell 1 b s) with ret := .framer .err } := rfl

theorem exec_feedData (b : Byte) (s : State) : exec (.feedData b) s = returning .framer (feedData b s) := rfl

/-- The last byte of a message: the verdict compares it with the checksum of the cells held before it (R104). -/
theorem feedData_completes {b : Byte} {s : State} (hlast : s.index.toNat + 1 = s.length.toNat)
    (hle : s.length.toNat ≤ 32) :
    feedData b s = .next (framerReset (putCell s.index.toNat b s),
      if checksum (cells s.buf 0 s.index.toNat) = b then .ok else .err) := by
  have hpred : s.length.toNat - 1 = s.index.toNat := by omega
  rw [feedData_last (by omega) hlast.ge (by omega), hpred, cells_write_beyond _ _ (by omega),
    Memory.read_write_same]

/-- Settles O27: one store, in cell 0. -/
theorem feedStoresAddress : Obligations.FeedStoresAddress := fun b s =>
  ⟨_, exec_feedAddr b s, rfl, Memory.write_frame s.buf 0 b⟩

/-- Settles O28: the row stores its byte whatever it is; that it is a legal length is what selects the row (R75). -/
theorem feedAcceptsLegalLength : Obligations.FeedAcceptsLegalLength := fun b s _ _ =>
  ⟨_, exec_feedLenOk b s, rfl, Memory.write_frame s.buf 1 b⟩

/-- Settles O29: the framing error resets the Framer after the two stores. -/
theorem feedRejectsIllegalLength : Obligations.FeedRejectsIllegalLength := fun b s _ =>
  ⟨_, exec_feedLenBad b s, rfl, Memory.write_frame s.buf 1 b⟩

/-- Settles O30: a byte before the last is `feedData_more`, the last is `feedData_completes`. -/
theorem feedAppendsAndVerifies : Obligations.FeedAppendsAndVerifies := by
  intro b s _ hlen hle
  obtain ⟨hread, hother⟩ := Memory.write_frame s.buf s.index.toNat b
  have hidx : s.index.toNat < 32 := by omega
  rcases Nat.lt_or_eq_of_le hlen with hmore | hlast
  · refine ⟨_, by rw [exec_feedData, feedData_more hidx hmore, returning_next], hread, hother, fun _ => ⟨rfl, ?_⟩, ?_⟩
    · exact index_succ_toNat hidx
    · intro h; omega
  · refine ⟨_, by rw [exec_feedData, feedData_completes hlast hle, returning_next], hread, hother, ?_, fun _ => ?_⟩
    · intro h; omega
    · rw [← hlast]; rfl

/-! ### Determinism (R108) -/

/-- Two Framers with the same registers that hold the same bytes of the message being read: the cells before the
cursor.  What the later cells hold, and everything outside the Framer, may differ. -/
structure SameFramer (s t : State) : Prop where
  fstate : s.fstate = t.fstate
  index : s.index = t.index
  length : s.length = t.length
  held : cells s.buf 0 s.index.toNat = cells t.buf 0 s.index.toNat

namespace SameFramer

theorem of_fresh {s t : State} (hs : s.Fresh) (ht : t.Fresh) : SameFramer s t := by
  obtain ⟨hsf, hsi, hsl⟩ := hs
  obtain ⟨htf, hti, htl⟩ := ht
  exact ⟨hsf.trans htf.symm, hsi.trans hti.symm, hsl.trans htl.symm, by rw [hsi]; rfl⟩

theorem of_reset (s t : State) : SameFramer (framerReset s) (framerReset t) :=
  of_fresh ⟨rfl, rfl, rfl⟩ ⟨rfl, rfl, rfl⟩

/-- Storing the same byte at the cursor keeps the bytes held the same, that byte among them. -/
theorem held_append {s t : State} (h : SameFramer s t) (b : Byte) {n : Nat} (hn : s.index.toNat = n) :
    cells (Memory.write s.buf n b) 0 (n + 1) = cells (Memory.write t.buf n b) 0 (n + 1) := by
  rw [cells_write_next, cells_write_next, ← hn, h.held]

/-- FEED_DATA decides by the cursor, the length and the checksum of the cells held (R104). -/
theorem feedData {s t : State} (h : SameFramer s t) (hlen : s.index.toNat + 1 ≤ s.length.toNat)
    (hle : s.length.toNat ≤ 32) (b : Byte) :
    ∃ u v r, Machine.feedData b s = .next (u, r) ∧ Machine.feedData b t = .next (v, r) ∧ SameFramer u v := by
  have hidx : s.index.toNat < 32 := by omega
  rcases Nat.lt_or_eq_of_le hlen with hmore | hlast
  · refine ⟨_, _, _, feedData_more hidx hmore,
      feedData_more (h.index ▸ hidx) (h.index ▸ h.length ▸ hmore), ⟨h.fstate, by rw [h.index], h.length, ?_⟩⟩
    simpa only [index_succ_toNat hidx, putCell_buf, ← h.index] using h.held_append b rfl
  · have hs := feedData_completes (b := b) hlast hle
    have ht := feedData_completes (b := b) (h.index ▸ h.length ▸ hlast) (h.length ▸ hle)
    rw [← h.index, ← h.held] at ht
    exact ⟨_, _, _, hs, ht, of_reset _ _⟩

/-- `feed` reads the Framer's registers, the byte and the cells held, so it gives both Framers one result and keeps
them the same. -/
theorem feed {s t : State} (h : SameFramer s t) (hi : s.FramerInv) (b : Byte) :
    ∃ u v r, Machine.feed b s = .next (u, r) ∧ Machine.feed b t = .next (v, r) ∧ SameFramer u v := by
  obtain ⟨hidle, hlength, hdata⟩ := hi
  unfold Machine.feed
  rw [← h.fstate]
  cases hf : s.fstate with
  | idle =>
    exact ⟨_, _, _, rfl, rfl, ⟨rfl, rfl, h.length, h.held_append b (by simp [hidle hf])⟩⟩
  | readingLength =>
    cases legalLength b with
    | true => exact ⟨_, _, _, rfl, rfl, ⟨rfl, rfl, rfl, h.held_append b (by simp [hlength hf])⟩⟩
    | false => exact ⟨_, _, _, rfl, rfl, of_reset _ _⟩
  | readingData =>
    obtain ⟨-, -, hle, -, hlen⟩ := hdata hf
    exact h.feedData hlen hle b

end SameFramer

/-- The same bytes fed to two such Framers give the same results (R108). -/
theorem feedAll_sameFramer (bytes : Frame) {s t : State} (h : SameFramer s t) (hi : s.FramerInv) :
    ∃ u v results, feedAll bytes s = .next (u, results) ∧ feedAll bytes t = .next (v, results) := by
  induction bytes generalizing s t with
  | nil => exact ⟨s, t, [], rfl, rfl⟩
  | cons b rest ih =>
    obtain ⟨u, v, r, hu, hv, huv⟩ := h.feed hi b
    obtain ⟨u', v', results, hu', hv'⟩ := ih huv (feed_keeps_framerInv hu hi)
    exact ⟨u', v', r :: results, by simp [feedAll, hu, hu'], by simp [feedAll, hv, hv']⟩

/-- A reset Framer is in a state of R40. -/
theorem State.Fresh.framerInv {s : State} (h : s.Fresh) : s.FramerInv := by
  simp [State.FramerInv, h]

/-- Settles O36: freshly reset Framers hold the same bytes, none. -/
theorem framerIsDeterministic : Obligations.FramerIsDeterministic := fun bytes _ _ h1 h2 =>
  feedAll_sameFramer bytes (.of_fresh h1 h2) h1.framerInv

end Sys2Proof.Machine
end

section
/-! The Session's rows (41_session.md R121, R124, R126 to R128, R132, R134): what each answers, one equation a row, and
S_RUN_BYTE as the composition of the Framer's row and the row of its result. -/

namespace Sys2Proof.Machine

/-! ### Rows and events that do not look at the Framer -/

theorem exec_sForceReinit (st : SState) (s : State) :
    exec (.sForceReinit st) s = .next { forceReinit s with ret := .signal .cont } := rfl

/-- Settles O10: the row and the event are both `forceReinit`, the event with the signal handed to the host. -/
theorem forceReinitRestartsLifecycle : Obligations.ForceReinitRestartsLifecycle :=
  ⟨exec_sForceReinit, exec_evForceReinit⟩

theorem exec_sIdleAny (r : Reason) (b : Byte) (s : State) :
    exec (.sIdleAny r b) s = .next { s with ret := .signal .cont } := rfl

/-- A Tick in Idle is not throttled, and its arm does nothing (R122, R124). -/
theorem stepTick_of_idle {s : State} (h : s.sstate = .idle) : stepTick s = .next (s, .cont) := by
  simp [stepTick, tickArm, idleAny, h]

/-- Settles O15: either event reaches an arm that answers the state unchanged. -/
theorem idleDoesNothing : Obligations.IdleDoesNothing := by
  refine ⟨exec_sIdleAny, fun b s h => ⟨?_, ?_⟩⟩
  · rw [exec_evTick, stepTick_of_idle h, deliver_next]
  · rw [exec_evByte, byteArm_of_not_run b (by simp [h]), deliver_next]

theorem exec_sWakeTick (s : State) : exec .sWakeTick s =
    .next { emit (.down (rom .wake)) s with sstate := .init, ret := .signal .cont } := rfl

/-- Settles O19: the template is the Wake frame of R78. -/
theorem wakeTickSendsWake : Obligations.WakeTickSendsWake := exec_sWakeTick

theorem exec_sInitTick (s : State) : exec .sInitTick s =
    .next { emit (.down (rom .init)) s with sstate := .run, ret := .signal .cont } := rfl

/-- Settles O20: the template is the Init frame of R78. -/
theorem initTickSendsInit : Obligations.InitTickSendsInit := exec_sInitTick

theorem exec_sRetryTick (s : State) : exec .sRetryTick s =
    .next { returnFromRetry s with ret := .signal .cont } := rfl

/-- Settles O22: the return from a framing error (R199) is this row. -/
theorem retryTickRequestsTableA : Obligations.RetryTickRequestsTableA := exec_sRetryTick

/-! ### A byte in Run (R128, R132) -/

theorem exec_sRunByte (b : Byte) (s : State) : exec (.sRunByte b) s = returning .signal (runByte b s) := rfl

theorem exec_sRunOk (s : State) : exec .sRunOk s = returning .signal (runOk s) := rfl

theorem exec_sRunErr (s : State) : exec .sRunErr s = .next { enterRetry s with ret := .signal .cont } := rfl

theorem exec_sRunNone (s : State) : exec .sRunNone s = .next { s with ret := .signal .cont } := rfl

/-- Settles O26: the row leaves only its signal. -/
theorem runNoneDoesNothing : Obligations.RunNoneDoesNothing := exec_sRunNone

/-- The table-data stage carries the value returned before it along. -/
theorem rspTableData_setRet (s : State) (v : Ret) :
    rspTableData { s with ret := v } = andThen (rspTableData s) fun u => .next { u with ret := v } := by
  have hm : State.message { s with ret := v } = s.message := rfl
  unfold rspTableData
  rw [hm]
  cases s.message <;> rfl

/-- `classify` reads the buffer only: it carries the value returned before it along. -/
theorem classify_setRet (s : State) (v : Ret) :
    classify { s with ret := v } = andThen (classify s) fun p => .next ({ p.1 with ret := v }, p.2) := by
  unfold classify rspTableA rspTableB rspTableOther
  rw [rspTableData_setRet]
  split_ifs
  · rfl
  · rfl
  · cases rspTableData s <;> rfl
  · cases rspTableData s <;> rfl
  · cases rspTableData s <;> rfl
  · rfl

/-- S_RUN_OK does not see the value returned before it. -/
theorem exec_sRunOk_setRet (s : State) (v : Ret) : exec .sRunOk { s with ret := v } = exec .sRunOk s := by
  rw [exec_sRunOk, exec_sRunOk, runOk, runOk, classify_setRet]
  cases classify s <;> rfl

/-- The row of a Framer result, after the row of `feed`, is the arm of that result (R128). -/
theorem runFramerResult_eq (u : State) (r : FResult) :
    runFramerResult { u with ret := .framer r } = returning .signal (afterFeed (u, r)) := by
  cases r with
  | none => exact exec_sRunNone _
  | ok => exact exec_sRunOk_setRet u _
  | err => exact exec_sRunErr _

/-- The Framer key selects the row that is this call of `feed` (R75, R100). -/
theorem exec_fkKey_row (b : Byte) (s : State) :
    ∃ i, decode (.fk (s.fkKey b)) = .instr i ∧ exec i s = returning .framer (feed b s) := by
  simp only [decode, decodeFk, State.fkKey, fkWord_fstate, fkWord_byte, FState.ofCode_code, feed]
  cases s.fstate with
  | idle => exact ⟨_, rfl, exec_feedAddr b s⟩
  | readingLength =>
    cases legalLength b with
    | true => exact ⟨_, rfl, exec_feedLenOk b s⟩
    | false => exact ⟨_, rfl, exec_feedLenBad b s⟩
  | readingData => exact ⟨_, rfl, exec_feedData b s⟩

/-- Settles O23: the row of the key is `feed`, and `afterFeed` is the row of its result; a fault of `feed` is the
fault of both sides. -/
theorem runByteFeedsTheFramer : Obligations.RunByteFeedsTheFramer := by
  intro b s
  obtain ⟨i, hdec, hexec⟩ := exec_fkKey_row b s
  refine ⟨i, hdec, ?_⟩
  rw [hexec, exec_sRunByte, runByte]
  cases feed b s with
  | next p => exact (runFramerResult_eq p.1 p.2).symm
  | fault e => rfl
  | refused r => rfl

end Sys2Proof.Machine
end

section
/-! The Responder's rows (42_responder.md R151 to R158): what each answers, one equation a row, and what they all have
in common (R160): only the trace and the result change, and the trace grows by templates and reports of the message. -/

namespace Sys2Proof.Machine

/-! ### One equation for each row -/

theorem exec_nonResponse (a l o i : Byte) (s : State) :
    exec (.nonResponse a l o i) s = .next { s with ret := .next .run } := rfl

theorem exec_rspOther (l o i : Byte) (s : State) :
    exec (.rspOther l o i) s = .next { s with ret := .next .run } := rfl

/-- Settles O37: neither row does more than return Run. -/
theorem ignoredMessagesDoNothing : Obligations.IgnoredMessagesDoNothing := fun a l o i s =>
  ⟨exec_nonResponse a l o i s, exec_rspOther l o i s⟩

theorem exec_rspInitAck (l i : Byte) (s : State) :
    exec (.rspInitAck l i) s = .next { emit (.down (rom .readTableA)) s with ret := .next .run } := rfl

/-- Settles O38: the template is the Read-Table-A frame of R78. -/
theorem initAckRequestsTableA : Obligations.InitAckRequestsTableA := exec_rspInitAck

/-- The result of an operation that goes on with `g` and then returns `a`. -/
theorem returning_andThen_next {α : Type} (f : α → Ret) (o : Host.Outcome State Fault Refusal) (g : State → State)
    (a : α) :
    returning f (andThen o fun u => .next (g u, a)) = andThen o fun u => .next { g u with ret := f a } := by
  cases o <;> rfl

theorem exec_rspTableData (l i : Byte) (s : State) :
    exec (.rspTableData l i) s = andThen (rspTableData s) fun u => .next { u with ret := .nothing } := rfl

theorem exec_rspTableA (l : Byte) (s : State) : exec (.rspTableA l) s =
    andThen (rspTableData s) fun u => .next { emit (.down (rom .readTableB)) u with ret := .next .run } :=
  returning_andThen_next .next _ (emit (.down (rom .readTableB))) .run

theorem exec_rspTableB (l : Byte) (s : State) : exec (.rspTableB l) s =
    andThen (rspTableData s) fun u => .next { u with ret := .next .retryTableA } :=
  returning_andThen_next .next _ id .retryTableA

theorem exec_rspTableOther (l i : Byte) (s : State) : exec (.rspTableOther l i) s =
    andThen (rspTableData s) fun u => .next { u with ret := .next .run } :=
  returning_andThen_next .next _ id .run

/-- The table-data stage reports the first `buf[1]` cells when the buffer has so many (R153). -/
theorem rspTableData_of_le {s : State} (h : (Memory.read s.buf 1).toNat ≤ 32) :
    rspTableData s = .next (emit (.up (report (cells s.buf 0 (Memory.read s.buf 1).toNat))) s) :=
  rspTableData_of_message (message_of_le h)

/-- Settles O39: the row is the table-data stage. -/
theorem tableDataIsReported : Obligations.TableDataIsReported := by
  intro l i s h
  rw [exec_rspTableData, rspTableData_of_le h]
  rfl

/-- Settles O40: after the report comes the Read-Table-B frame of R78. -/
theorem tableARequestsTableB : Obligations.TableARequestsTableB := by
  intro l s h
  rw [exec_rspTableA, rspTableData_of_le h, andThen_next]
  simp [emit, rom]

/-- Settles O41: after the report only the result is left to set. -/
theorem tableBClosesTheCycle : Obligations.TableBClosesTheCycle := by
  intro l s h
  rw [exec_rspTableB, rspTableData_of_le h]
  rfl

/-! ### What the rows have in common (R160) -/

/-- The rows of format MK: the six classes of a message and the stage before the table-id test (R80, R94). -/
inductive ResponderRow : Instr → Prop
  | nonResponse (a l o i : Byte) : ResponderRow (.nonResponse a l o i)
  | initAck (l i : Byte) : ResponderRow (.rspInitAck l i)
  | tableData (l i : Byte) : ResponderRow (.rspTableData l i)
  | tableA (l : Byte) : ResponderRow (.rspTableA l)
  | tableB (l : Byte) : ResponderRow (.rspTableB l)
  | tableOther (l i : Byte) : ResponderRow (.rspTableOther l i)
  | other (l o i : Byte) : ResponderRow (.rspOther l o i)

/-- A message key selects a row of the Responder. -/
theorem responderRow_of_decode {w : BitVec 32} {i : Instr} (h : decode (.mk w) = .instr i) : ResponderRow i := by
  obtain rfl : mkClass w = i := Decoded.instr.inj h
  unfold mkClass
  split_ifs <;> constructor

/-- The stage of a message key is the table-data row. -/
theorem responderRow_of_stageOf {c : Config} {w : BitVec 32} {i : Instr} (h : stageOf c (.mk w) = some i) :
    ResponderRow i := by
  obtain ⟨-, ⟨⟩⟩ := Option.ite_none_right_eq_some.mp h
  exact .tableData _ _

/-- An output the Responder may produce when the buffer holds the message `msg`. -/
def Output.IsReply (msg : Option Frame) : Output → Prop
  | .down f => ∃ k, f = rom k
  | .up text => ∃ m, msg = some m ∧ text = report m
  | .returned _ => False

/-- From `s` to `t` only the result changes and the trace, which grows by replies to the message that `s` holds. -/
def Replies (s t : State) : Prop :=
  ∃ new, t = { s with trace := s.trace ++ new, ret := t.ret } ∧ ∀ o ∈ new, o.IsReply s.message

namespace Replies

theorem returns (s : State) (v : Ret) : Replies s { s with ret := v } :=
  ⟨[], by simp, by simp⟩

/-- One more reply before the result is set. -/
theorem emit {s t : State} (h : Replies s t) {o : Output} (ho : o.IsReply s.message) (v : Ret) :
    Replies s { emit o t with ret := v } := by
  obtain ⟨new, ht, hnew⟩ := h
  refine ⟨new ++ [o], by rw [ht]; simp [Machine.emit], fun p hp => ?_⟩
  rcases List.mem_append.mp hp with hp | hp
  · exact hnew p hp
  · exact List.mem_singleton.mp hp ▸ ho

theorem emit_request {s t : State} (h : Replies s t) (k : Template) (v : Ret) :
    Replies s { Machine.emit (.down (rom k)) t with ret := v } :=
  h.emit (o := .down (rom k)) ⟨k, rfl⟩ v

/-- The table-data stage replies with the report. -/
theorem of_rspTableData {s u : State} (h : rspTableData s = .next u) (v : Ret) : Replies s { u with ret := v } := by
  obtain ⟨m, hm, rfl⟩ := rspTableData_eq_next h
  exact (returns s s.ret).emit (o := .up (report m)) ⟨m, hm, rfl⟩ v

end Replies

/-- Every row of the Responder that answers has only replied. -/
theorem ResponderRow.replies {i : Instr} {s t : State} (hi : ResponderRow i) (h : exec i s = .next t) :
    Replies s t := by
  cases hi with
  | nonResponse | other =>
    cases h
    exact .returns s _
  | initAck =>
    cases h
    exact (Replies.returns s s.ret).emit_request .readTableA _
  | tableData =>
    obtain ⟨u, hu, ⟨⟩⟩ := andThen_eq_next.mp h
    exact .of_rspTableData hu _
  | tableA l =>
    rw [exec_rspTableA] at h
    obtain ⟨u, hu, ⟨⟩⟩ := andThen_eq_next.mp h
    exact (Replies.of_rspTableData hu u.ret).emit_request .readTableB _
  | tableB l =>
    rw [exec_rspTableB] at h
    obtain ⟨u, hu, ⟨⟩⟩ := andThen_eq_next.mp h
    exact .of_rspTableData hu _
  | tableOther l i =>
    rw [exec_rspTableOther] at h
    obtain ⟨u, hu, ⟨⟩⟩ := andThen_eq_next.mp h
    exact .of_rspTableData hu _

/-- Settles O43: `ResponderRow.replies`, read for each of the two streams. -/
theorem responderMutatesNothing : Obligations.ResponderMutatesNothing := by
  intro c w i s t hi h
  obtain ⟨new, ht, hnew⟩ := (hi.elim responderRow_of_decode responderRow_of_stageOf).replies h
  exact ⟨new, ht, fun _ hf => hnew _ hf, fun _ htext => hnew _ htext⟩

end Sys2Proof.Machine
end

section
/-! The output rows (43_host_interface.md R170, R171) and the characters of a report (R172). -/

namespace Sys2Proof

/-! ### The characters of a report -/

theorem length_hexText (m : Frame) : (hexText m).length = 2 * m.length := by
  induction m with
  | nil => rfl
  | cons b rest ih =>
    simp [hexText, hex2, ih]
    omega

/-- Each byte takes two characters, so the first `k` bytes take the first `2 * k`. -/
theorem drop_hexText (m : Frame) (k : Nat) : (hexText m).drop (2 * k) = hexText (m.drop k) := by
  induction k generalizing m with
  | zero => rfl
  | succ k ih =>
    cases m with
    | nil => rfl
    | cons b rest => exact ih rest

/-- The two characters of a byte stand in the report after the colon and those of the bytes before it. -/
theorem report_getElem?_of_getElem? {m : Frame} {k : Nat} {b : Byte} (h : m[k]? = some b) (j : Nat) (hj : j < 2) :
    (report m)[j + 1 + 2 * k]? = (hex2 b)[j]? := by
  obtain ⟨hk, rfl⟩ := List.getElem?_eq_some_iff.mp h
  have hdrop : (hexText m).drop (2 * k) = hex2 m[k] ++ hexText (m.drop (k + 1)) := by
    rw [drop_hexText, List.drop_eq_getElem_cons hk, hexText]
  calc (report m)[j + 1 + 2 * k]?
    _ = (hexText m)[2 * k + j]? := by
      rw [report, show j + 1 + 2 * k = 2 * k + j + 1 by omega, List.getElem?_cons_succ]
    _ = (hex2 m[k] ++ hexText (m.drop (k + 1)))[j]? := by rw [← List.getElem?_drop, hdrop]
    _ = (hex2 m[k])[j]? := List.getElem?_append_left hj

/-- Settles O48, by the length of the text after the colon and the places of each byte's characters. -/
theorem reportIsColonAndDigits : Obligations.ReportIsColonAndDigits := by
  intro m
  have hlength : (report m).length = 1 + 2 * m.length := by
    rw [report, List.length_cons, length_hexText, Nat.add_comm]
  exact ⟨hlength, rfl, fun k b hb => ⟨_, _, rfl,
    report_getElem?_of_getElem? hb 0 (by decide), report_getElem?_of_getElem? hb 1 (by decide)⟩⟩

end Sys2Proof

namespace Sys2Proof.Machine

/-! ### One equation for each output row -/

theorem exec_sendDownWake (s : State) :
    exec .sendDownWake s = .next { emitDown .wake s with ret := .nothing } := rfl

theorem exec_sendDownInit (s : State) :
    exec .sendDownInit s = .next { emitDown .init s with ret := .nothing } := rfl

theorem exec_sendDownReadTableA (s : State) :
    exec .sendDownReadTableA s = .next { emitDown .readTableA s with ret := .nothing } := rfl

theorem exec_sendDownReadTableB (s : State) :
    exec .sendDownReadTableB s = .next { emitDown .readTableB s with ret := .nothing } := rfl

/-- Settles O45: the templates of the four rows are the frames of R78. -/
theorem sendDownHandsOverTemplates : Obligations.SendDownHandsOverTemplates := fun s =>
  ⟨exec_sendDownWake s, exec_sendDownInit s, exec_sendDownReadTableA s, exec_sendDownReadTableB s⟩

theorem exec_sendUp (chars : Text) (s : State) :
    exec (.sendUp chars) s = .next { emitUp chars s with ret := .nothing } := rfl

/-- A report is handed over as any other text is (R172). -/
theorem exec_sendUpReport (m : Frame) (s : State) : exec (.sendUpReport m) s = exec (.sendUp (report m)) s := rfl

/-- Settles O46: the second row is the first with the text of a report. -/
theorem sendUpHandsOverTexts : Obligations.SendUpHandsOverTexts := fun s =>
  ⟨fun chars => exec_sendUp chars s, fun m => (exec_sendUpReport m s).trans (exec_sendUp (report m) s)⟩

end Sys2Proof.Machine
end

section
/-! The entry on a framing error (60_exceptions.md R197): for either cause of R190 `feed` resets the Framer after its one
store, and a byte in Run that `feed` rejects follows the policy and hands over `Continue`. -/

namespace Sys2Proof.Machine

/-- A byte in ReadingLength that is no legal length (R103). -/
theorem feed_rejects_length {b : Byte} {s : State} (hf : s.fstate = .readingLength)
    (hb : b.toNat < 3 ∨ 32 < b.toNat) : feed b s = .next (framerReset (putCell s.nextCell b s), .err) := by
  have hbad : ¬legalLength b = true := by rw [legalLength_iff]; omega
  simp only [feed, State.nextCell, hf, if_neg hbad]
  rfl

/-- A last byte in ReadingData that is not the checksum of the bytes held (R104). -/
theorem feed_rejects_checksum {b : Byte} {s : State} (hf : s.fstate = .readingData) (hle : s.length.toNat ≤ 32)
    (hlast : s.index.toNat + 1 = s.length.toNat) (hsum : checksum (cells s.buf 0 s.index.toNat) ≠ b) :
    feed b s = .next (framerReset (putCell s.nextCell b s), .err) := by
  simp only [feed, State.nextCell, hf, feedData_completes hlast hle, if_neg hsum]

/-- A byte in Run that `feed` rejects: the Session follows the policy and the call ends with `Continue` (R128, R131). -/
theorem exec_evByte_of_feed_err {b : Byte} {s u : State} (hrun : s.sstate = .run) (hfeed : feed b s = .next (u, .err)) :
    exec (.evByte b) s =
      .next { enterRetry u with trace := u.trace ++ [.returned .cont], ret := .signal .cont } := by
  rw [exec_evByte, byteArm_of_run b hrun, runByte, hfeed]
  rfl

/-- Settles O54: both causes make `feed` answer the same state, so one entry serves them. -/
theorem framingErrorEntry : Obligations.FramingErrorEntry := by
  intro b s hrun hcause
  have hfeed : feed b s = .next (framerReset (putCell s.nextCell b s), .err) := by
    rcases hcause with ⟨hf, hb⟩ | ⟨hf, -, hle, hlast, hsum⟩
    · exact feed_rejects_length hf hb
    · rw [← hlast, Nat.add_sub_cancel] at hsum
      exact feed_rejects_checksum hf hle hlast hsum
  refine ⟨_, exec_evByte_of_feed_err hrun hfeed, ?_, Memory.write_frame s.buf s.nextCell b⟩
  rw [← hrun]
  rfl

end Sys2Proof.Machine
end

section
/-! The decoders against the encoder (30_encoding.md sections 2 to 4 and 9).  Each encoding space has one lemma that
decodes the word of given fields and one that finds the fields of a word; the two round trips are read from them. -/

namespace Sys2Proof

/-! ### Every word that decodes is the word of its fields -/

theorem Reason.ofCode_eq_some {c : BitVec 2} {r : Reason} (h : Reason.ofCode c = some r) : c = r.code := by
  unfold Reason.ofCode at h
  split_ifs at h <;> cases h <;> assumption

theorem FState.ofCode_eq_some {c : BitVec 2} {f : FState} (h : FState.ofCode c = some f) : c = f.code := by
  unfold FState.ofCode at h
  split_ifs at h <;> cases h <;> assumption

theorem SState.ofCode_eq_some {c : BitVec 3} {st : SState} (h : SState.ofCode c = some st) : c = st.code := by
  unfold SState.ofCode at h
  split_ifs at h <;> cases h <;> assumption

/-- A word is its two fields put together. -/
theorem extract_append {n m : Nat} (w : BitVec (n + m)) : w.extractLsb' m n ++ w.extractLsb' 0 m = w := by
  apply BitVec.eq_of_getLsbD_eq
  intro i hi
  rw [BitVec.getLsbD_append, BitVec.getLsbD_extractLsb', BitVec.getLsbD_extractLsb']
  split_ifs with hlo
  · simp [hlo]
  · rw [decide_eq_true (by omega), Bool.true_and, Nat.add_sub_cancel' (by omega)]

theorem evWord_of_reason {w : BitVec 10} {r : Reason} (h : Reason.ofCode (w.extractLsb' 8 2) = some r) :
    ∃ b, w = evWord r b := by
  refine ⟨w.extractLsb' 0 8, ?_⟩
  rw [evWord, ← Reason.ofCode_eq_some h]
  exact (extract_append (n := 2) (m := 8) w).symm

theorem fkWord_of_fstate {w : BitVec 10} {f : FState} (h : FState.ofCode (w.extractLsb' 8 2) = some f) :
    ∃ b, w = fkWord f b := by
  refine ⟨w.extractLsb' 0 8, ?_⟩
  rw [fkWord, ← FState.ofCode_eq_some h]
  exact (extract_append (n := 2) (m := 8) w).symm

theorem skWord_of_fields {key : BitVec 5} {st : SState} {r : Reason} (hr : Reason.ofCode (key.extractLsb' 0 2) = some r)
    (hst : SState.ofCode (key.extractLsb' 2 3) = some st) : key = skWord st r := by
  rw [skWord, ← Reason.ofCode_eq_some hr, ← SState.ofCode_eq_some hst]
  exact (extract_append (n := 3) (m := 2) key).symm

/-! ### What the word of given fields decodes to -/

theorem decode_evWord (r : Reason) (b : Byte) : decode (.ev (evWord r b)) = .instr (Machine.eventOf r b) := by
  simp only [decode, decodeEv, evWord_reason, evWord_byte, Reason.ofCode_code]
  cases r <;> rfl

theorem decode_skWord (st : SState) (r : Reason) (b : Byte) : decode (.sk (skWord st r) b) = .instr (skArm r st b) := by
  simp only [decode, decodeSk, skWord_reason, skWord_sstate, Reason.ofCode_code, SState.ofCode_code]

/-- The row of a Framer key: the arm of the Framer's state, and in ReadingLength of the byte (R75). -/
def fkArm (f : FState) (b : Byte) : Instr :=
  match f with
  | .idle => .feedAddr b
  | .readingLength => if legalLength b then .feedLenOk b else .feedLenBad b
  | .readingData => .feedData b

theorem decode_fkWord (f : FState) (b : Byte) : decode (.fk (fkWord f b)) = .instr (fkArm f b) := by
  simp only [decode, decodeFk, fkWord_fstate, fkWord_byte, FState.ofCode_code]
  cases f with
  | idle | readingData => rfl
  | readingLength => cases h : legalLength b <;> simp [fkArm, h]

/-- The row that sends a template (R170). -/
def sendDown : Template → Instr
  | .wake => .sendDownWake
  | .init => .sendDownInit
  | .readTableA => .sendDownReadTableA
  | .readTableB => .sendDownReadTableB

theorem decode_rom (k : Template) : decode (.tpl (rom k)) = .instr (sendDown k) := by
  cases k <;> rfl

theorem decode_report (m : Frame) : decode (.up (report m)) = .instr (.sendUpReport m) := by
  have h : readReport (report m) = some m := readHexText_hexText m
  simp only [decode, decodeUp, h]

/-- The throttle is the stage of a Tick's key in a throttled state (R94, R122). -/
theorem stageOf_skWord_tick {c : Config} {st : SState} (h : throttled c.throttleFirst st = true) (b : Byte) :
    stageOf c (.sk (skWord st .tick) b) = some (.sThrottle st) := by
  simp only [stageOf, skWord_reason, skWord_sstate, Reason.ofCode_code, SState.ofCode_code, if_pos h]

/-! ### From an operation to its word and back -/

/-- A stage is read back from its word by `stageOf`. -/
theorem stageOf_of_encode {c : Config} {i : Instr} {w : OpWord} (hwf : i.WellFormed c = true)
    (hw : encode c i = some w) (hstage : i.isStage = true) : stageOf c w = some i := by
  cases i with
  | sThrottle st => cases hw; exact stageOf_skWord_tick hwf 0
  | rspTableData len tid => cases hw; simp [stageOf_mkWord]
  | _ => cases hstage

/-- An operation that is no stage is read back from its word by `decode`. -/
theorem decode_of_encode {c : Config} {i : Instr} {w : OpWord} (hwf : i.WellFormed c = true)
    (hw : encode c i = some w) (hdiag : i = .sendUpDiag → readReport c.diagReport = none)
    (hstage : i.isStage = false) : decode w = .instr i := by
  cases i with
  | sThrottle | rspTableData => cases hstage
  | sRunOk | sRunErr | sRunNone | reset | checksum | sendUp | hex2 => cases hw
  | evTick | evByte | evForceReinit => cases hw; exact decode_evWord _ _
  | sIdleAny r | sLinebreakAny r =>
    cases hw
    rw [decode_skWord]
    cases r with
    | tick | byteReceived => rfl
    | forceReinit => simp [Instr.WellFormed] at hwf
  | sForceReinit | sWakeTick | sDropByteWake | sInitTick | sDropByteInit | sRunTick | sRunByte | sRetryTick
  | sDropByteRetry => cases hw; exact decode_skWord _ _ _
  | feedAddr | feedData => cases hw; exact decode_fkWord _ _
  | feedLenOk | feedLenBad => cases hw; simp_all [decode_fkWord, fkArm, Instr.WellFormed]
  | rspInitAck | rspTableA | rspTableB | rspTableOther | rspOther | nonResponse =>
    cases hw
    simp_all [decode, mkClass_mkWord, Instr.WellFormed]
  | sendDownWake | sendDownInit | sendDownReadTableA | sendDownReadTableB => cases hw; exact decode_rom _
  | sendUpReport m => cases hw; exact decode_report m
  | sendUpDiag => cases hw; simp only [decode, decodeUp, hdiag rfl]

/-- Settles O5: `stageOf_of_encode` for the two stages, `decode_of_encode` for every other operation. -/
theorem decodeEncodeAgree : Obligations.DecodeEncodeAgree := by
  intro c i w hwf hw hdiag
  split_ifs with hstage
  · exact stageOf_of_encode hwf hw hstage
  · exact decode_of_encode hwf hw hdiag (by simpa using hstage)

/-! ### From a word to its operation and back -/

theorem hexDigit_of_hexValue {ch : Char} {n : Nat} (h : hexValue ch = some n) : n < 16 ∧ hexDigit n = ch := by
  unfold hexValue at h
  split_ifs at h with hdigit hletter <;> cases h
  · refine ⟨by omega, ?_⟩
    rw [hexDigit, if_pos (by omega), Nat.add_sub_cancel' hdigit.1, Char.ofNat_toNat]
  · refine ⟨by omega, ?_⟩
    rw [hexDigit, if_neg (by omega), Nat.add_sub_cancel' (by omega), Char.ofNat_toNat]

/-- The two digits of a byte put together from two digit values. -/
theorem hex2_of_values {h l : Nat} (hh : h < 16) (hl : l < 16) :
    hex2 (BitVec.ofNat 8 (16 * h + l)) = [hexDigit h, hexDigit l] := by
  have hb : (BitVec.ofNat 8 (16 * h + l)).toNat = 16 * h + l := by
    rw [BitVec.toNat_ofNat]; omega
  rw [hex2, hb, show (16 * h + l) / 16 = h by omega, show (16 * h + l) % 16 = l by omega]

/-- A text of digit pairs is the text of the bytes read from it. -/
theorem hexText_of_readHexText (t : Text) {m : Frame} (h : readHexText t = some m) : hexText m = t := by
  induction t using readHexText.induct generalizing m with
  | case1 => cases h; rfl
  | case2 => cases h
  | case3 hi lo rest x y m' hm hy hx ih =>
    rw [readHexText, hx, hy, hm] at h
    cases h
    obtain ⟨hx16, rfl⟩ := hexDigit_of_hexValue hx
    obtain ⟨hy16, rfl⟩ := hexDigit_of_hexValue hy
    rw [hexText, hex2_of_values hx16 hy16, ih hm]
    rfl
  | case4 hi lo rest hnone ih =>
    rw [readHexText] at h
    split at h
    · next hx hy hm => exact absurd hm (hnone _ _ _ hx hy)
    · cases h

theorem report_of_readReport {t : Text} {m : Frame} (h : readReport t = some m) : report m = t := by
  unfold readReport at h
  split at h
  · cases h
  · split_ifs at h with hc
    rw [report, hexText_of_readHexText _ h, hc]

/-- The row of a Session key is well formed, and its word is the key, with the byte where the row takes one. -/
theorem skArm_encode (c : Config) (r : Reason) (st : SState) (b : Byte) :
    (skArm r st b).WellFormed c = true ∧ ∃ b', encode c (skArm r st b) = some (.sk (skWord st r) b') := by
  cases r <;> cases st <;> exact ⟨rfl, _, rfl⟩

theorem fkArm_encode (c : Config) (f : FState) (b : Byte) :
    (fkArm f b).WellFormed c = true ∧ encode c (fkArm f b) = some (.fk (fkWord f b)) := by
  cases f with
  | idle | readingData => exact ⟨rfl, rfl⟩
  | readingLength => cases h : legalLength b <;> simp [fkArm, h, Instr.WellFormed, encode]

theorem eventOf_encode (c : Config) (r : Reason) (b : Byte) :
    (Machine.eventOf r b).WellFormed c = true ∧ encode c (Machine.eventOf r b) = some (.ev (evWord r b)) := by
  cases r <;> exact ⟨rfl, rfl⟩

/-- The class of a message key keeps the key's bytes that its conditions do not fix (R80). -/
theorem mkClass_encode (c : Config) (w : BitVec 32) :
    (mkClass w).WellFormed c = true ∧ encode c (mkClass w) = some (.mk w) := by
  rw [← mkWord_of_bytes w, mkClass_mkWord]
  split_ifs <;> simp_all [Instr.WellFormed, encode]

theorem decode_ev_encode (c : Config) {w : BitVec 10} {i : Instr} (h : decode (.ev w) = .instr i) :
    i.WellFormed c = true ∧ encode c i = some (.ev w) := by
  cases hr : Reason.ofCode (w.extractLsb' 8 2) with
  | none => simp [decode, decodeEv, hr] at h
  | some r =>
    obtain ⟨b, rfl⟩ := evWord_of_reason hr
    obtain rfl := Decoded.instr.inj ((decode_evWord r b).symm.trans h)
    exact eventOf_encode c r b

theorem decode_sk_encode (c : Config) {key : BitVec 5} {b : Byte} {i : Instr} (h : decode (.sk key b) = .instr i) :
    i.WellFormed c = true ∧ ∃ b', encode c i = some (.sk key b') := by
  cases hr : Reason.ofCode (key.extractLsb' 0 2) with
  | none => simp [decode, decodeSk, hr] at h
  | some r =>
    cases hst : SState.ofCode (key.extractLsb' 2 3) with
    | none => simp [decode, decodeSk, hr, hst] at h
    | some st =>
      obtain rfl := skWord_of_fields hr hst
      obtain rfl := Decoded.instr.inj ((decode_skWord st r b).symm.trans h)
      exact skArm_encode c r st b

theorem decode_fk_encode (c : Config) {w : BitVec 10} {i : Instr} (h : decode (.fk w) = .instr i) :
    i.WellFormed c = true ∧ encode c i = some (.fk w) := by
  cases hf : FState.ofCode (w.extractLsb' 8 2) with
  | none => simp [decode, decodeFk, hf] at h
  | some f =>
    obtain ⟨b, rfl⟩ := fkWord_of_fstate hf
    obtain rfl := Decoded.instr.inj ((decode_fkWord f b).symm.trans h)
    exact fkArm_encode c f b

/-- A frame that decodes is one of the templates (R55). -/
theorem decode_tpl_encode (c : Config) {f : Frame} {i : Instr} (h : decode (.tpl f) = .instr i) :
    i.WellFormed c = true ∧ encode c i = some (.tpl f) := by
  simp only [decode, decodeTpl] at h
  split_ifs at h with hf hf hf hf <;> cases h <;> exact ⟨rfl, by rw [hf]; rfl⟩

/-- A text that decodes is the report of a message, or else the diagnostic text (R94, R174). -/
theorem decode_up_encode {c : Config} {t : Text} {i : Instr} (h : decode (.up t) = .instr i)
    (hdiag : i = .sendUpDiag → OpWord.up t = .up c.diagReport) :
    i.WellFormed c = true ∧ encode c i = some (.up t) := by
  cases ht : readReport t with
  | none =>
    obtain rfl : Instr.sendUpDiag = i := by simpa [decode, decodeUp, ht] using h
    exact ⟨rfl, by rw [hdiag rfl]; rfl⟩
  | some m =>
    obtain rfl : Instr.sendUpReport m = i := by simpa [decode, decodeUp, ht] using h
    exact ⟨rfl, by rw [encode, report_of_readReport ht]⟩

/-- Settles O6, by the encoding spaces. -/
theorem encodeDecodeAgree : Obligations.EncodeDecodeAgree := by
  intro c i w h hdiag
  cases w with
  | ev => exact decode_ev_encode c h
  | sk => exact decode_sk_encode c h
  | fk => exact decode_fk_encode c h
  | mk w => cases h; exact mkClass_encode c w
  | tpl => exact decode_tpl_encode c h
  | up => exact decode_up_encode h hdiag

/-- Settles O7: the words are written out, so the decoders run. -/
theorem sampleWordsDecode : Obligations.SampleWordsDecode := by
  unfold Obligations.SampleWordsDecode
  decide

end Sys2Proof
end

section
/-! The events and the Session's rows (41_session.md sections 1, 3, 4 and 6): a step runs the event of its word, an event
runs the row of its Session key, and what a Tick does to the throttle and the watchdog, up to a whole silence in Run. -/

namespace Sys2Proof.Machine

/-! ### A step runs the event of the next word (R73, R91, R209) -/

theorem step_of_inbox_nil {s : State} (h : s.inbox = []) : step s = .next s := by
  simp [step, fetch, h]

theorem step_of_decode {s : State} {w : BitVec 10} {rest : List (BitVec 10)} {i : Instr} (hin : s.inbox = w :: rest)
    (hdec : decode (.ev w) = .instr i) : step s = exec i { s with inbox := rest } := by
  simp only [step, fetch, hin, hdec]

theorem step_of_reject {s : State} {w : BitVec 10} {rest : List (BitVec 10)} {e : Reject} (hin : s.inbox = w :: rest)
    (hdec : decode (.ev w) = .reject e) : step s = .refused .reservedReason := by
  simp only [step, fetch, hin, hdec]

/-- Settles O8: `step_of_decode`. -/
theorem stepRunsDecodedEvent : Obligations.StepRunsDecodedEvent := fun _ _ _ _ => step_of_decode

/-- No event has reason code 3 (R91). -/
theorem decode_reserved_reason (b : Byte) : decode (.ev (3#2 ++ b)) = .reject .reservedReason := by
  have hreason : (3#2 ++ b).extractLsb' 8 2 = 3#2 := extract_hi 3#2 b
  have hnone : Reason.ofCode 3#2 = none := rfl
  simp only [decode, decodeEv, hreason, hnone]

/-- Settles O9: the reserved word does not decode, whatever its byte. -/
theorem stepWaitsAndRefusesReservedReason : Obligations.StepWaitsAndRefusesReservedReason :=
  ⟨fun _ => step_of_inbox_nil, fun _ b _ hin => step_of_reject hin (decode_reserved_reason b)⟩

/-! ### The stages of a Tick -/

theorem stepTick_of_not_throttled {s : State} (ht : throttled s.cfg.throttleFirst s.sstate = false) :
    stepTick s = tickArm s := by
  simp only [stepTick, ht, if_neg Bool.false_ne_true]

theorem stepTick_of_swallowed {s : State} (ht : throttled s.cfg.throttleFirst s.sstate = true)
    (h : (s.tickCount + 1).toNat < s.cfg.tickThreshold) :
    stepTick s = .next ({ s with tickCount := s.tickCount + 1 }, .cont) := by
  simp only [stepTick, ht, if_true, throttleTick_swallows h]

theorem stepTick_of_passed {s : State} (ht : throttled s.cfg.throttleFirst s.sstate = true)
    (h : s.cfg.tickThreshold ≤ (s.tickCount + 1).toNat) : stepTick s = tickArm { s with tickCount := 0 } := by
  simp only [stepTick, ht, if_true, throttleTick_passes h]

theorem tickArm_of_run {s : State} (h : s.sstate = .run) : tickArm s = .next (runTick s) := by
  simp only [tickArm, h]

/-- Everything a Tick's arm can do: the watchdog's arm in Run; elsewhere nothing, or a template and the next state of
the lifecycle (R124 to R127, R133, R134). -/
theorem tickArm_cases {s t : State} {c : ContinueSignal} (h : tickArm s = .next (t, c)) :
    (s.sstate = .run ∧ runTick s = (t, c)) ∨
    (s.sstate ≠ .run ∧ c = .cont ∧
      (t = s ∨ ∃ k st wd, (st = .init ∨ st = .run) ∧ (wd = s.watchdogCount ∨ wd = 0) ∧
        t = { emit (.down (rom k)) s with sstate := st, watchdogCount := wd })) := by
  cases hst : s.sstate <;> rw [tickArm, hst] at h
  case run => exact .inl ⟨rfl, Host.Outcome.next.inj h⟩
  all_goals
    cases h
    refine .inr ⟨nofun, rfl, ?_⟩
  case idle | lineBreak => exact .inl rfl
  case wake => exact .inr ⟨.wake, .init, _, .inl rfl, .inl rfl, rfl⟩
  case init => exact .inr ⟨.init, .run, _, .inr rfl, .inl rfl, rfl⟩
  case retryTableA => exact .inr ⟨.readTableA, .run, 0, .inr rfl, .inr rfl, rfl⟩

/-- Settles O11: `stepTick_answers`, with the signal handed over. -/
theorem tickAlwaysCompletes : Obligations.TickAlwaysCompletes := by
  intro b s
  obtain ⟨u, c, hstep, hu⟩ := stepTick_answers s
  refine ⟨{ u with trace := u.trace ++ [.returned c], ret := .signal c }, c, ?_, ?_⟩
  · rw [exec_evTick, hstep, deliver_next]
  · rw [hu]

/-! ### An event runs the row of its Session key (R74, R123) -/

theorem exec_skArm_tick (b : Byte) (s : State) :
    exec (skArm .tick s.sstate b) s = returning .signal (tickArm s) := by
  unfold tickArm
  cases s.sstate <;> rfl

theorem exec_skArm_byteReceived (b : Byte) (s : State) :
    exec (skArm .byteReceived s.sstate b) s = returning .signal (byteArm b s) := by
  unfold byteArm
  cases s.sstate <;> rfl

/-- The row of a call's Session key, after the throttle has passed where there is one, is the call. -/
theorem exec_skArm {r : Reason} {s : State} (b : Byte)
    (hpass : r = .tick → throttled s.cfg.throttleFirst s.sstate = true → s.cfg.tickThreshold ≤ (s.tickCount + 1).toNat) :
    exec (skArm r s.sstate b)
      (if r = .tick ∧ throttled s.cfg.throttleFirst s.sstate = true then { s with tickCount := 0 } else s) =
      returning .signal (sessionStep r b s) := by
  cases r with
  | forceReinit => rfl
  | byteReceived => exact exec_skArm_byteReceived b s
  | tick =>
    rw [sessionStep]
    cases ht : throttled s.cfg.throttleFirst s.sstate with
    | false =>
      rw [stepTick_of_not_throttled ht, if_neg (by simp)]
      exact exec_skArm_tick b s
    | true =>
      rw [stepTick_of_passed ht (hpass rfl ht), if_pos ⟨rfl, rfl⟩]
      exact exec_skArm_tick b { s with tickCount := 0 }

/-- Settles O14: the key decodes to the row of `exec_skArm`, and the event hands over the signal of the same call. -/
theorem eventRunsItsKeyRow : Obligations.EventRunsItsKeyRow := by
  intro r b s t i hpass hdec hexec
  obtain rfl := Decoded.instr.inj ((decode_skWord s.sstate r b).symm.trans hdec)
  rw [exec_skArm b hpass] at hexec
  obtain ⟨u, c, hstep, rfl⟩ := returning_eq_next.mp hexec
  exact ⟨c, rfl, by rw [exec_eventOf, hstep, deliver_next]⟩

/-! ### States that take no action (R125, R135) -/

theorem exec_sLinebreakAny (r : Reason) (b : Byte) (s : State) :
    exec (.sLinebreakAny r b) s = .next { s with ret := .signal .cont } := rfl

/-- A Tick in LineBreak is not throttled, and its arm does nothing (R122, R125). -/
theorem stepTick_of_lineBreak {s : State} (h : s.sstate = .lineBreak) : stepTick s = .next (s, .cont) := by
  rw [stepTick_of_not_throttled (by simp [h]), tickArm, h]
  rfl

/-- A byte outside Run only hands `Continue` to the host. -/
theorem exec_evByte_of_not_run (b : Byte) {s : State} (h : s.sstate ≠ .run) :
    exec (.evByte b) s = .next { s with trace := s.trace ++ [.returned .cont], ret := .signal .cont } := by
  rw [exec_evByte, byteArm_of_not_run b h, deliver_next]

/-- Settles O16: either event reaches an arm that answers the state unchanged. -/
theorem lineBreakDoesNothing : Obligations.LineBreakDoesNothing := by
  refine ⟨exec_sLinebreakAny, fun b s h => ⟨?_, exec_evByte_of_not_run b (by simp [h])⟩⟩
  rw [exec_evTick, stepTick_of_lineBreak h, deliver_next]

/-- Settles O17: the three rows are `dropByte`, and the three states are outside Run. -/
theorem bytesOutsideRunAreDropped : Obligations.BytesOutsideRunAreDropped := by
  refine ⟨fun b s => ⟨rfl, rfl, rfl⟩, fun b s h => exec_evByte_of_not_run b ?_⟩
  rcases h with h | h | h <;> simp [h]

/-- Settles O25: the row is `enterRetry`. -/
theorem runErrFollowsPolicy : Obligations.RunErrFollowsPolicy := by
  intro s
  refine ⟨fun h => ?_, fun h => ?_⟩ <;> rw [exec_sRunErr, enterRetry, h] <;> rfl

/-! ### The throttle (R122) -/

theorem exec_evTick_of_swallowed (b : Byte) {s : State} (ht : throttled s.cfg.throttleFirst s.sstate = true)
    (h : (s.tickCount + 1).toNat < s.cfg.tickThreshold) :
    exec (.evTick b) s =
      .next { s with
        tickCount := s.tickCount + 1, trace := s.trace ++ [.returned .cont], ret := .signal .cont } := by
  rw [exec_evTick, stepTick_of_swallowed ht h, deliver_next]

/-- Settles O18: below a threshold that fits the counter the count does not wrap. -/
theorem throttleCountsTicks : Obligations.ThrottleCountsTicks := by
  have hcount (s : State) (h : s.tickCount.toNat + 1 ≤ s.cfg.tickThreshold) (hmax : s.cfg.tickThreshold ≤ 255) :
      (s.tickCount + 1).toNat = s.tickCount.toNat + 1 := count_succ_toNat (by omega)
  refine ⟨fun st s h hmax => ⟨s.tickCount + 1, hcount s h.le hmax, ?_⟩, fun st s h hmax => ?_,
    fun b s ht h hmax => ⟨s.tickCount + 1, hcount s h.le hmax, ?_⟩⟩
  · show execSThrottle st s = _
    rw [execSThrottle, throttleTick_swallows (by rw [hcount s h.le hmax]; exact h), returning_next]
  · show execSThrottle st s = _
    rw [execSThrottle, throttleTick_passes (by rw [hcount s h.ge hmax]; exact h.le), returning_next]
  · exact exec_evTick_of_swallowed b ht (by rw [hcount s h.le hmax]; exact h)

/-! ### The watchdog (R133, R191, R198) -/

theorem exec_sRunTick (s : State) : exec .sRunTick s = returning .signal (.next (runTick s)) := rfl

/-- Settles O21: `runTick_quiet` below the maximum, `runTick_expires` from it on. -/
theorem runTickCountsSilence : Obligations.RunTickCountsSilence := by
  rintro s ⟨-, -, hmax⟩
  refine ⟨fun h => ⟨s.watchdogCount + 1, count_succ_toNat (by omega), ?_⟩, fun h => ?_⟩
  · rw [exec_sRunTick, runTick_quiet hmax h, returning_next]
  · obtain ⟨w, hw, e⟩ := runTick_expires hmax h
    exact ⟨w, hw, by rw [exec_sRunTick, e, returning_next]; rfl⟩

/-- A Tick's arm asks for re-initialisation exactly in Run with the watchdog at its maximum. -/
theorem tickArm_needsFullReinit_iff {s t : State} {c : ContinueSignal} (hmax : s.cfg.watchdogMax ≤ 254)
    (h : tickArm s = .next (t, c)) :
    c = .needsFullReinit ↔ s.sstate = .run ∧ s.cfg.watchdogMax ≤ s.watchdogCount.toNat := by
  rcases tickArm_cases h with ⟨hrun, e⟩ | ⟨hrun, rfl, -⟩
  · rcases Nat.lt_or_ge s.watchdogCount.toNat s.cfg.watchdogMax with hlt | hge
    · rw [runTick_quiet hmax hlt] at e
      obtain ⟨-, rfl⟩ := Prod.mk.inj e
      simp [hlt]
    · obtain ⟨w, -, e'⟩ := runTick_expires hmax hge
      obtain ⟨-, rfl⟩ := Prod.mk.inj (e'.symm.trans e)
      simp [hrun, hge]
  · simp [hrun]

/-- The same of a whole Tick: in Run the throttle passes it too. -/
theorem stepTick_needsFullReinit_iff {s t : State} {c : ContinueSignal} (hmax : s.cfg.watchdogMax ≤ 254)
    (h : stepTick s = .next (t, c)) :
    c = .needsFullReinit ↔ s.sstate = .run ∧ s.cfg.tickThreshold ≤ (s.tickCount + 1).toNat ∧
      s.cfg.watchdogMax ≤ s.watchdogCount.toNat := by
  rcases stepTick_cases s with ⟨-, hlt, e⟩ | ⟨-, hge, e⟩ | ⟨ht, e⟩ <;> rw [e] at h
  · cases h
    simp only [reduceCtorEq, Nat.not_le.mpr hlt, false_and, and_false]
  · simpa only [hge, true_and] using tickArm_needsFullReinit_iff (s := { s with tickCount := 0 }) hmax h
  · have hrun : s.sstate ≠ .run := fun hrun => by simp [hrun] at ht
    simp only [tickArm_needsFullReinit_iff hmax h, hrun, false_and]

/-- A received byte always continues (R120). -/
theorem byteArm_cont {b : Byte} {s t : State} {c : ContinueSignal} (h : byteArm b s = .next (t, c)) : c = .cont := by
  by_cases hrun : s.sstate = .run
  · rw [byteArm_of_run b hrun] at h
    exact (runByte_cases h).1
  · rw [byteArm_of_not_run b hrun] at h
    cases h
    rfl

/-- Settles O53: by the reason; only a Tick can return anything but `Continue`. -/
theorem fullReinitExactlyOnWatchdog : Obligations.FullReinitExactlyOnWatchdog := by
  rintro r b s t ⟨-, -, hmax⟩ h
  rw [exec_eventOf] at h
  obtain ⟨u, c, hstep, rfl⟩ := deliver_eq_next.mp h
  cases r with
  | tick => simpa using stepTick_needsFullReinit_iff hmax hstep
  | byteReceived =>
    obtain rfl := byteArm_cont hstep
    simp
  | forceReinit =>
    cases hstep
    simp

/-- A tick in Run that passes the throttle is the watchdog's arm on a count started again. -/
theorem exec_evTick_of_run_passed {s : State} (b : Byte) (hrun : s.sstate = .run)
    (h : s.cfg.tickThreshold ≤ (s.tickCount + 1).toNat) :
    exec (.evTick b) s = deliver (.next (runTick { s with tickCount := 0 })) := by
  rw [exec_evTick, stepTick_of_passed (by rw [hrun, throttled_run]) h]
  exact congrArg deliver (tickArm_of_run hrun)

/-- A silent period in Run before the watchdog's last. -/
theorem exec_evTick_of_run_quiet {s : State} (b : Byte) (hrun : s.sstate = .run)
    (h : s.cfg.tickThreshold ≤ (s.tickCount + 1).toNat) (hmax : s.cfg.watchdogMax ≤ 254)
    (hquiet : s.watchdogCount.toNat < s.cfg.watchdogMax) :
    exec (.evTick b) s =
      .next { s with
        tickCount := 0, watchdogCount := s.watchdogCount + 1
        trace := s.trace ++ [.returned .cont], ret := .signal .cont } := by
  rw [exec_evTick_of_run_passed b hrun h, runTick_quiet (s := { s with tickCount := 0 }) hmax hquiet, deliver_next]

/-- Settles O55: the throttle passes the tick, and `runTick_expires` saturates the count. -/
theorem livenessFailureEntry : Obligations.LivenessFailureEntry := by
  rintro b s ⟨-, hthreshold, hmax⟩ hrun htick hge hle
  have hcount := count_succ_toNat (x := s.tickCount) (by omega)
  obtain ⟨w, hw, e⟩ := runTick_expires (s := { s with tickCount := 0 }) hmax hge
  have hwmax : w.toNat = s.cfg.watchdogMax + 1 := hw.trans (max_eq_right hle)
  refine ⟨w, hwmax, ?_⟩
  rw [exec_evTick_of_run_passed b hrun (by omega), e, deliver_next]
  simp [emit]

/-! ### Silence in Run (R140) -/

/-- Run with the parameters `c` after `n` silent ticks: whole periods in the watchdog's count, the ticks of the period
begun in the throttle's. -/
structure SilentFor (c : Config) (n : Nat) (t : State) : Prop where
  cfg : t.cfg = c
  sstate : t.sstate = .run
  tickCount_lt : t.tickCount.toNat < c.tickThreshold
  elapsed : t.tickCount.toNat + c.tickThreshold * t.watchdogCount.toNat = n

namespace SilentFor

theorem counts {c : Config} {n : Nat} {t : State} (h : SilentFor c n t) :
    t.watchdogCount.toNat = n / c.tickThreshold ∧ t.tickCount.toNat = n % c.tickThreshold := by
  obtain ⟨hdiv, hmod⟩ := (Nat.div_mod_unique (Nat.zero_lt_of_lt h.tickCount_lt)).mpr ⟨h.elapsed, h.tickCount_lt⟩
  exact ⟨hdiv.symm, hmod.symm⟩

/-- One more silent tick: the throttle counts it, or it ends a period before the watchdog's last. -/
theorem tick {c : Config} {n : Nat} {t : State} (h : SilentFor c n t) (hc : c.Admitted)
    (hn : n + 1 < c.tickThreshold * (c.watchdogMax + 1)) :
    ∃ u, exec (.evTick 0) t = .next u ∧ u.ret = .signal .cont ∧ SilentFor c (n + 1) u := by
  obtain ⟨rfl, hrun, hlt, rfl⟩ := h
  obtain ⟨hpos, hthreshold, hmax⟩ := hc
  have hcount := count_succ_toNat (x := t.tickCount) (by omega)
  rcases Nat.lt_or_eq_of_le (Nat.succ_le_of_lt hlt) with hmore | hlast
  · refine ⟨_, exec_evTick_of_swallowed 0 (by rw [hrun, throttled_run]) (by omega), rfl, rfl, hrun, ?_, ?_⟩
    · exact hcount.trans_lt hmore
    · simp only [hcount]; omega
  · have hquiet : t.watchdogCount.toNat < t.cfg.watchdogMax := by
      have hperiods : t.cfg.tickThreshold * (t.watchdogCount.toNat + 1) <
          t.cfg.tickThreshold * (t.cfg.watchdogMax + 1) := by rw [Nat.mul_succ]; omega
      exact Nat.lt_of_succ_lt_succ (Nat.lt_of_mul_lt_mul_left hperiods)
    refine ⟨_, exec_evTick_of_run_quiet 0 hrun (by omega) hmax hquiet, rfl, rfl, hrun, hpos, ?_⟩
    show 0 + t.cfg.tickThreshold * (t.watchdogCount + 1).toNat = _
    rw [count_succ_toNat (by omega), Nat.mul_succ]
    omega

/-- One tick before the end of `WATCHDOG_MAX + 1` periods both counters stand at their last value. -/
theorem last {c : Config} {n : Nat} {t : State} (h : SilentFor c n t)
    (hn : c.tickThreshold * (c.watchdogMax + 1) = n + 1) :
    t.watchdogCount.toNat = c.watchdogMax ∧ t.tickCount.toNat + 1 = c.tickThreshold := by
  have hpos := Nat.zero_lt_of_lt h.tickCount_lt
  rw [Nat.mul_succ] at hn
  obtain ⟨hdiv, hmod⟩ := (Nat.div_mod_unique hpos).mpr
    (show c.tickThreshold - 1 + c.tickThreshold * c.watchdogMax = n ∧ c.tickThreshold - 1 < c.tickThreshold by omega)
  obtain ⟨hwd, htick⟩ := h.counts
  omega

end SilentFor

/-- Every silent tick before the last of `WATCHDOG_MAX + 1` periods continues. -/
theorem tickMany_silent {s : State} (hc : s.cfg.Admitted) (hs : SilentFor s.cfg 0 s) (n : Nat)
    (hn : n < s.cfg.tickThreshold * (s.cfg.watchdogMax + 1)) :
    ∃ t, tickMany n s = .next t ∧ (0 < n → t.ret = .signal .cont) ∧ SilentFor s.cfg n t := by
  induction n with
  | zero => exact ⟨s, rfl, nofun, hs⟩
  | succ n ih =>
    obtain ⟨t, ht, -, hsilent⟩ := ih (by omega)
    obtain ⟨u, hu, hret, hnext⟩ := hsilent.tick hc hn
    exact ⟨u, by rw [tickMany, ht, andThen_next, hu], fun _ => hret, hnext⟩

/-- Settles O56: `tickMany_silent`, and the failure of O55 on the tick after it. -/
theorem silenceExpiresTheWatchdog : Obligations.SilenceExpiresTheWatchdog := by
  intro s hc hrun htick hwd
  have hs : SilentFor s.cfg 0 s := ⟨rfl, hrun, by rw [htick]; exact hc.1, by rw [htick, hwd]; rfl⟩
  refine ⟨fun n hpos hn => ?_, ?_⟩
  · obtain ⟨t, ht, hret, hsilent⟩ := tickMany_silent hc hs n hn
    exact ⟨t, ht, hret hpos, hsilent.sstate, hsilent.counts⟩
  · obtain ⟨n, hn⟩ : ∃ n, s.cfg.tickThreshold * (s.cfg.watchdogMax + 1) = n + 1 :=
      Nat.exists_eq_add_one_of_ne_zero (Nat.mul_ne_zero (Nat.ne_of_gt hc.1) (Nat.succ_ne_zero _))
    obtain ⟨t, ht, -, hsilent⟩ := tickMany_silent hc hs n (by omega)
    obtain ⟨hwd, htick⟩ := hsilent.last hn
    obtain ⟨w, hw, e⟩ := livenessFailureEntry 0 t (hsilent.cfg ▸ hc) hsilent.sstate (by rw [htick, hsilent.cfg])
      (by rw [hwd, hsilent.cfg]) (by rw [hwd, hsilent.cfg]; exact Nat.le_succ _)
    exact ⟨_, by rw [hn, tickMany, ht, andThen_next, e], rfl, by rw [← hsilent.cfg]; exact hw⟩

end Sys2Proof.Machine
end

section
/-! A received byte in Run (41_session.md section 4, R128 to R130): it always completes from a Framer state of R40, and
after `Ok` the Session adopts what the Responder's row returns. -/

namespace Sys2Proof.Machine

/-! ### A byte in Run completes -/

/-- A message that `feed` accepts lies inside the buffer: its length byte is the legal length it was read with. -/
theorem feed_ok_length {b : Byte} {s u : State} (h : feed b s = .next (u, .ok)) (hi : s.FramerInv) :
    (Memory.read u.buf 1).toNat ≤ 32 := by
  rcases feed_cases h with ⟨-, ⟨⟩, -⟩ | ⟨-, -, ⟨⟩, -⟩ | ⟨-, -, ⟨⟩, -⟩ | ⟨-, -, -, ⟨⟩, -⟩ | ⟨hf, -, -, rfl⟩
  obtain ⟨hlen, -, hle, hidx, -⟩ := hi.2.2 hf
  rwa [framerReset_buf, putCell_buf, Memory.read_write_other _ _ (by omega), ← hlen]

theorem runByte_answers (b : Byte) {s : State} (hi : s.FramerInv) : ∃ t, runByte b s = .next (t, .cont) := by
  obtain ⟨u, r, hf⟩ := feed_answers b hi
  rw [runByte, hf, andThen_next]
  cases r with
  | none => exact ⟨_, rfl⟩
  | err => exact ⟨_, rfl⟩
  | ok =>
    obtain ⟨v, st, hc⟩ := classify_answers (message_of_le (feed_ok_length hf hi))
    exact ⟨_, by rw [afterFeed, runOk, hc, andThen_next]⟩

/-- After `feed` nothing touches the Framer's registers or the buffer. -/
theorem runByte_keeps_framerInv {b : Byte} {s t : State} {c : ContinueSignal} (h : runByte b s = .next (t, c))
    (hi : s.FramerInv) : t.FramerInv := by
  obtain ⟨-, u, r, hf, hc⟩ := runByte_cases h
  have hu := feed_keeps_framerInv hf hi
  rcases hc with ⟨-, rfl⟩ | ⟨-, rfl⟩ | ⟨-, v, st, hcl, rfl⟩
  · exact hu
  · exact hu
  · rw [(classify_frame hcl).1]
    exact hu

/-- A byte in Run leaves the counters alone or starts them again (R130). -/
theorem runByte_counters {b : Byte} {s t : State} {c : ContinueSignal} (h : runByte b s = .next (t, c)) :
    (t.tickCount = s.tickCount ∨ s.cfg.tickResetOnOk = true ∧ t.tickCount = 0) ∧
      (t.watchdogCount = s.watchdogCount ∨ t.watchdogCount = 0) := by
  obtain ⟨-, u, r, hf, hc⟩ := runByte_cases h
  have hu := feed_frame hf
  rcases hc with ⟨-, rfl⟩ | ⟨-, rfl⟩ | ⟨-, v, st, hcl, rfl⟩
  · rw [hu]; exact ⟨.inl rfl, .inl rfl⟩
  · rw [hu]; exact ⟨.inl rfl, .inl rfl⟩
  · rw [(classify_frame hcl).1, hu]
    refine ⟨?_, .inr rfl⟩
    dsimp only
    cases s.cfg.tickResetOnOk with
    | false => exact .inl rfl
    | true => exact .inr ⟨rfl, rfl⟩

/-- What the two statements about a byte in Run have in common. -/
theorem runByte_completes (b : Byte) {s : State} (hi : s.FramerInv) :
    ∃ t, runByte b s = .next (t, .cont) ∧ t.FramerInv ∧ t.cfg = s.cfg ∧ t.inbox = s.inbox ∧
      Memory.read t.buf s.nextCell = b ∧ (∀ a, a ≠ s.nextCell → Memory.read t.buf a = Memory.read s.buf a) := by
  obtain ⟨t, ht⟩ := runByte_answers b hi
  obtain ⟨hbuf, hcfg, hinbox, -⟩ := runByte_frame ht
  have hwrite := Memory.write_frame s.buf s.nextCell b
  rw [← hbuf] at hwrite
  exact ⟨t, ht, runByte_keeps_framerInv ht hi, hcfg, hinbox, hwrite⟩

/-- Settles O13: `runByte_completes`, and `runByte_counters` of its answer. -/
theorem runByteCompletes : Obligations.RunByteCompletes := by
  intro b s hi
  obtain ⟨t, ht, hinv, hcfg, hinbox, hcell, hother⟩ := runByte_completes b hi
  have hcounters := runByte_counters ht
  refine ⟨{ t with ret := .signal .cont }, ?_, rfl, hinv, hcfg, hinbox, hcell, hother, hcounters⟩
  rw [exec_sRunByte, ht, returning_next]

/-- Settles O12: in Run as in O13, with the signal handed over; outside Run only the signal is. -/
theorem receivedByteCompletes : Obligations.ReceivedByteCompletes := by
  intro b s hi
  by_cases hrun : s.sstate = .run
  · obtain ⟨t, ht, hinv, hcfg, hinbox, hcell, hother⟩ := runByte_completes b hi
    have hcounters := runByte_counters ht
    obtain ⟨-, -, -, hst⟩ := runByte_frame ht
    rw [hrun, ← or_assoc, or_self] at hst
    refine ⟨{ t with trace := t.trace ++ [.returned .cont], ret := .signal .cont }, ?_, rfl, hinv, hcfg, hinbox,
      fun _ => ⟨hcell, hother, hst, hcounters⟩, fun h => absurd hrun h⟩
    rw [exec_evByte, byteArm_of_run b hrun, ht, deliver_next]
  · exact ⟨_, exec_evByte_of_not_run b hrun, rfl, hi, rfl, rfl, fun h => absurd h hrun, fun _ => rfl⟩

/-! ### After `Ok` the Session adopts the Responder's result (R130, R157) -/

/-- The row of the message key is `classify` (R80, R159). -/
theorem exec_mkClass_mkKey (s : State) : exec (mkClass s.mkKey) s = returning .next (classify s) := by
  unfold State.mkKey classify
  rw [mkClass_mkWord]
  split_ifs <;> rfl

/-- S_RUN_OK after the Responder has answered. -/
theorem exec_sRunOk_of_classify {s u : State} {st : SState} (h : classify s = .next (u, st)) :
    exec .sRunOk s = .next { u with
      sstate := st, watchdogCount := 0, tickCount := if s.cfg.tickResetOnOk then 0 else s.tickCount
      ret := .signal .cont } := by
  rw [exec_sRunOk, runOk, h, andThen_next, returning_next, (classify_frame h).1]

/-- Settles O24: both rows run `classify`. -/
theorem runOkAdoptsTheResponder : Obligations.RunOkAdoptsTheResponder := by
  intro s hle
  obtain ⟨u, st, hc⟩ := classify_answers (message_of_le hle)
  have hok := exec_sRunOk_of_classify hc
  refine ⟨{ u with ret := .next st }, st, ?_, rfl, (classify_frame hc).2, hok⟩
  rw [exec_mkClass_mkKey, hc, returning_next]

/-- An opcode other than the two known ones is ignored, whatever the later cells hold (R158). -/
theorem classify_of_other_opcode {s : State} (h0 : Memory.read s.buf 0 = responseMarker)
    (hinit : Memory.read s.buf 2 ≠ opInitAck) (hdata : Memory.read s.buf 2 ≠ opTableData) :
    classify s = .next (s, .run) := by
  rw [classify, if_neg (not_not.mpr h0), if_neg hinit, if_neg hdata]
  rfl

/-- Settles O44: the checksum in the opcode's place, 0xFB, is no known opcode. -/
theorem shortMessageIgnoresStaleCell : Obligations.ShortMessageIgnoresStaleCell := by
  intro s h0 _ h2
  exact exec_sRunOk_of_classify (classify_of_other_opcode h0 (by rw [h2]; decide) (by rw [h2]; decide))

end Sys2Proof.Machine
end

section
/-! The invariant between two steps (10_state.md R40, 70_reset_and_hazards.md R242): it holds at power-on, every step
keeps it, and under it no step faults. -/

namespace Sys2Proof.Machine

/-! ### Power-on (R41) -/

/-- Settles O1: the values are those of `State.reset`. -/
theorem powerOnResetRegisters : Obligations.PowerOnResetRegisters := ⟨rfl, rfl, rfl, rfl, rfl, rfl, rfl⟩

/-- Settles O2: the Framer is fresh and both counters are 0. -/
theorem powerOnMeetsInvariant : Obligations.PowerOnMeetsInvariant := by
  intro c events hc
  have hfresh : (State.started c events).Fresh := ⟨rfl, rfl, rfl⟩
  exact ⟨hc, Memory.wf_reset, hfresh.framerInv, ⟨hc.1, Nat.zero_le _, nofun⟩, nofun⟩

/-! ### Every step keeps the invariant -/

theorem State.Inv.framerInv {s : State} (h : s.Inv) : s.FramerInv := h.2.2.1

theorem State.Inv.threshold_pos {s : State} (h : s.Inv) : 0 < s.cfg.tickThreshold := h.1.1

/-- The invariant reads the Session's registers only in `SessionInv` and in the condition on RetryTableA. -/
theorem State.Inv.with_session {s : State} (h : s.Inv) {st : SState} {tick wd : Byte} (tr : List Output)
    (htick : tick.toNat < s.cfg.tickThreshold) (hwd : wd.toNat ≤ s.cfg.watchdogMax + 1) (hst : st ≠ .lineBreak)
    (hidle : st = .retryTableA → s.fstate = .idle) :
    State.Inv { s with sstate := st, tickCount := tick, watchdogCount := wd, trace := tr } := by
  obtain ⟨hcfg, hbuf, hframer, -, -⟩ := h
  exact ⟨hcfg, hbuf, hframer, ⟨htick, hwd, hst⟩, hidle⟩

theorem State.Inv.with_tickCount {s : State} (h : s.Inv) {tick : Byte} (htick : tick.toNat < s.cfg.tickThreshold) :
    State.Inv { s with tickCount := tick } := by
  obtain ⟨-, -, -, ⟨-, hwd, hst⟩, hidle⟩ := id h
  exact h.with_session s.trace htick hwd hst hidle

/-- The watchdog counts to `WATCHDOG_MAX + 1` and stays there (R133). -/
theorem runTick_watchdogCount_le {s : State} (ha : s.cfg.Admitted) (hwd : s.watchdogCount.toNat ≤ s.cfg.watchdogMax + 1) :
    ∃ w tr, (runTick s).1 = { s with watchdogCount := w, trace := tr } ∧ w.toNat ≤ s.cfg.watchdogMax + 1 := by
  obtain ⟨-, -, hmax⟩ := ha
  rcases runTick_cases s with ⟨w, e, hw⟩ | ⟨w, e, -, hw⟩
  · exact ⟨w, s.trace, by rw [e], by omega⟩
  · refine ⟨w, _, by rw [e]; rfl, ?_⟩
    rcases hw with ⟨rfl, hle⟩ | ⟨rfl, -⟩
    · rw [count_succ_toNat (by omega)]
      omega
    · exact hwd

theorem tickArm_keeps_inv {s t : State} {c : ContinueSignal} (h : tickArm s = .next (t, c)) (hi : s.Inv) : t.Inv := by
  obtain ⟨hcfg, -, -, ⟨htick, hwd, hst⟩, hidle⟩ := id hi
  rcases tickArm_cases h with ⟨-, e⟩ | ⟨-, -, rfl | ⟨k, st, wd, hst', hwd', rfl⟩⟩
  · obtain ⟨w, tr, e', hw⟩ := runTick_watchdogCount_le hcfg hwd
    obtain rfl : { s with watchdogCount := w, trace := tr } = t := by rw [← e', e]
    exact hi.with_session tr htick hw hst hidle
  · exact hi
  · refine hi.with_session _ htick ?_ ?_ ?_
    · rcases hwd' with rfl | rfl
      · exact hwd
      · exact Nat.zero_le _
    · rcases hst' with rfl | rfl <;> nofun
    · rcases hst' with rfl | rfl <;> nofun

/-- A swallowed tick stays below the threshold, a passed one starts the count again (R122). -/
theorem stepTick_keeps_inv {s t : State} {c : ContinueSignal} (h : stepTick s = .next (t, c)) (hi : s.Inv) : t.Inv := by
  rcases stepTick_cases s with ⟨-, hlt, e⟩ | ⟨-, -, e⟩ | ⟨-, e⟩ <;> rw [e] at h
  · cases h
    exact hi.with_tickCount hlt
  · exact tickArm_keeps_inv h (hi.with_tickCount hi.threshold_pos)
  · exact tickArm_keeps_inv h hi

/-- `feed` in Run keeps the invariant: it stores inside the buffer and touches no Session register. -/
theorem feed_keeps_inv {b : Byte} {s u : State} {r : FResult} (h : feed b s = .next (u, r)) (hi : s.Inv)
    (hrun : s.sstate = .run) : u.Inv := by
  have hframer := feed_keeps_framerInv h hi.framerInv
  have hu := feed_frame h
  obtain ⟨hcfg, hbuf, hnext, hsession, -⟩ := hi
  have hwf := Memory.wf_write s.buf s.nextCell b (nextCell_lt hnext) hbuf
  generalize u.fstate = fs, u.index = ix, u.length = ln at hu
  subst hu
  exact ⟨hcfg, hwf, hframer, hsession, fun h => by simp [hrun] at h⟩

/-- A byte in Run leads to RetryTableA only after a message is completed or abandoned, when the Framer is reset
(R242). -/
theorem runByte_keeps_inv {b : Byte} {s t : State} {c : ContinueSignal} (h : runByte b s = .next (t, c)) (hi : s.Inv)
    (hrun : s.sstate = .run) : t.Inv := by
  obtain ⟨-, u, r, hf, hc⟩ := runByte_cases h
  have hu := feed_keeps_inv hf hi hrun
  obtain ⟨hcfg, -, -, ⟨htick, hwd, hst⟩, -⟩ := id hu
  rcases hc with ⟨-, rfl⟩ | ⟨rfl, rfl⟩ | ⟨rfl, v, st, hcl, rfl⟩
  · exact hu
  · refine hu.with_session u.trace htick hwd ?_ fun _ => (feed_fresh hf nofun).1
    split
    · nofun
    · exact hst
  · obtain ⟨hv, hst'⟩ := classify_frame hcl
    rw [hv]
    refine hu.with_session v.trace ?_ (Nat.zero_le _) ?_ fun _ => (feed_fresh hf nofun).1
    · split
      · exact hcfg.1
      · exact htick
    · rcases hst' with rfl | rfl <;> nofun

theorem byteArm_keeps_inv {b : Byte} {s t : State} {c : ContinueSignal} (h : byteArm b s = .next (t, c)) (hi : s.Inv) :
    t.Inv := by
  by_cases hrun : s.sstate = .run
  · exact runByte_keeps_inv (byteArm_of_run b hrun ▸ h) hi hrun
  · rw [byteArm_of_not_run b hrun] at h
    cases h
    exact hi

theorem sessionStep_keeps_inv {r : Reason} {b : Byte} {s t : State} {c : ContinueSignal}
    (h : sessionStep r b s = .next (t, c)) (hi : s.Inv) : t.Inv := by
  cases r with
  | tick => exact stepTick_keeps_inv h hi
  | byteReceived => exact byteArm_keeps_inv h hi
  | forceReinit =>
    cases h
    exact hi.with_session s.trace hi.threshold_pos (Nat.zero_le _) nofun nofun

/-- Settles O3: a step is one call of `sessionStep`; the inbox, the trace and the result are in no clause. -/
theorem stepKeepsInvariant : Obligations.StepKeepsInvariant := by
  intro s t hi h
  rcases step_cases h with ⟨-, rfl⟩ | ⟨w, rest, r, b, -, -, he⟩
  · exact hi
  · rw [exec_eventOf] at he
    obtain ⟨u, c, hu, rfl⟩ := deliver_eq_next.mp he
    have hinv : u.Inv := sessionStep_keeps_inv hu hi
    exact hinv

/-! ### No step faults (R192) -/

theorem sessionStep_answers (r : Reason) (b : Byte) {s : State} (hi : s.FramerInv) :
    ∃ t c, sessionStep r b s = .next (t, c) := by
  cases r with
  | forceReinit => exact ⟨_, _, rfl⟩
  | tick =>
    obtain ⟨t, c, h, -⟩ := stepTick_answers s
    exact ⟨t, c, h⟩
  | byteReceived =>
    by_cases hrun : s.sstate = .run
    · obtain ⟨t, h⟩ := runByte_answers b hi
      exact ⟨t, _, (byteArm_of_run b hrun).trans h⟩
    · exact ⟨_, _, byteArm_of_not_run b hrun⟩

/-- An event word of a reason other than 3 is an event (R73). -/
theorem decode_ev_of_reason {w : BitVec 10} (h : w.extractLsb' 8 2 ≠ 3#2) :
    ∃ r b, decode (.ev w) = .instr (eventOf r b) := by
  have hcode : ∀ code : BitVec 2, code ≠ 3#2 → (Reason.ofCode code).isSome = true := by decide
  obtain ⟨r, hr⟩ := Option.isSome_iff_exists.mp (hcode _ h)
  obtain ⟨b, rfl⟩ := evWord_of_reason hr
  exact ⟨r, b, decode_evWord r b⟩

theorem step_answers {s : State} (hi : s.FramerInv) {w : BitVec 10} {rest : List (BitVec 10)} (hin : s.inbox = w :: rest)
    (hw : w.extractLsb' 8 2 ≠ 3#2) : ∃ t, step s = .next t := by
  obtain ⟨r, b, hdec⟩ := decode_ev_of_reason hw
  obtain ⟨u, c, hu⟩ := sessionStep_answers r b (s := { s with inbox := rest }) hi
  exact ⟨_, by rw [step_of_decode hin hdec, exec_eventOf, hu, deliver_next]⟩

/-- A step waits, refuses the reserved reason, or answers. -/
theorem safe_of_framerInv {s : State} (hi : s.FramerInv) : s.Safe := by
  intro f
  cases hin : s.inbox with
  | nil =>
    rw [step_of_inbox_nil hin]
    nofun
  | cons w rest =>
    cases hdec : decode (.ev w) with
    | reject e =>
      rw [step_of_reject hin hdec]
      nofun
    | instr i =>
      obtain ⟨r, b, rfl⟩ := decodeEv_eq_instr hdec
      obtain ⟨u, c, hu⟩ := sessionStep_answers r b (s := { s with inbox := rest }) hi
      rw [step_of_decode hin hdec, exec_eventOf, hu, deliver_next]
      nofun

/-- Every state of a run from power-on meets the invariant. -/
theorem Reachable.inv {s : State} (h : Reachable s) : s.Inv := by
  induction h with
  | started c events hc => exact powerOnMeetsInvariant c events hc
  | next _ hs ih => exact stepKeepsInvariant _ _ ih hs

/-- Settles O4: `safe_of_framerInv` and `step_answers` under the invariant, which every reachable state meets. -/
theorem runsNeverFault : Obligations.RunsNeverFault :=
  ⟨fun _ hi => ⟨safe_of_framerInv hi.framerInv, fun _ _ => step_answers hi.framerInv⟩,
    fun _ h => ⟨h.inv, safe_of_framerInv h.inv.framerInv, fun _ _ => step_answers h.inv.framerInv⟩⟩

end Sys2Proof.Machine
end

section
/-! The Framer on whole messages (40_framer.md sections 3 to 6): `reset`, the CHECKSUM row, and the verdict on a message
of legal length, which a change of one byte turns into `Err`. -/

namespace Sys2Proof.Machine

/-! ### `reset` and the CHECKSUM row (R105, R106) -/

theorem exec_reset (s : State) : exec .reset s = .next { framerReset s with ret := .nothing } := rfl

/-- Settles O31: the row is `framerReset`. -/
theorem framerResetKeepsBuffer : Obligations.FramerResetKeepsBuffer := exec_reset

theorem exec_checksum_of_le {s : State} (h : s.length.toNat ≤ 32) :
    exec .checksum s = .next { s with ret := .byte (checksum (cells s.buf 0 (s.length.toNat - 1))) } := by
  show execChecksum s = _
  rw [execChecksum, bufferChecksum, if_pos ((Nat.sub_le _ _).trans h)]

/-- Settles O32: the byte is the checksum, which negates the sum (O33). -/
theorem checksumRowReturnsNegatedSum : Obligations.ChecksumRowReturnsNegatedSum := by
  intro s h
  refine ⟨_, exec_checksum_of_le h, ?_⟩
  have hsum := (checksumIffSumIsZero (cells s.buf 0 (s.length.toNat - 1)) _).mp rfl
  rwa [byteSum_append, byteSum_singleton] at hsum

/-! ### The verdict on a message (R107) -/

theorem feedAll_cons {b : Byte} {rest : Frame} {s u t : State} {r : FResult} {results : List FResult}
    (hb : feed b s = .next (u, r)) (hrest : feedAll rest u = .next (t, results)) :
    feedAll (b :: rest) s = .next (t, r :: results) := by
  rw [feedAll, hb, andThen_next, hrest, andThen_next]

theorem feed_of_readingData (b : Byte) {s : State} (hf : s.fstate = .readingData) : feed b s = feedData b s := by
  simp only [feed, hf]

/-- The rest of a message whose length byte is read: the verdict is on the cells held and the bytes still to come. -/
theorem feedAll_payload (p : Frame) (c : Byte) {s : State} (hf : s.fstate = .readingData)
    (hlen : s.index.toNat + p.length + 1 = s.length.toNat) (hle : s.length.toNat ≤ 32) :
    ∃ t, feedAll (p ++ [c]) s =
        .next (t, List.replicate p.length .none ++
          [if checksum (cells s.buf 0 s.index.toNat ++ p) = c then .ok else .err]) ∧
      t.Fresh ∧ cells t.buf 0 s.length.toNat = cells s.buf 0 s.index.toNat ++ (p ++ [c]) := by
  induction p generalizing s with
  | nil =>
    have hlast := (feed_of_readingData c hf).trans (feedData_completes hlen hle)
    rw [List.append_nil, ← hlen]
    exact ⟨_, feedAll_cons hlast rfl, ⟨rfl, rfl, rfl⟩, cells_write_next s.buf c s.index.toNat⟩
  | cons b p ih =>
    rw [List.length_cons] at hlen
    have hidx : s.index.toNat < 32 := by omega
    have hmore := (feed_of_readingData b hf).trans (feedData_more hidx (by omega))
    have hheld : cells (Memory.write s.buf s.index.toNat b) 0 (s.index + 1).toNat =
        cells s.buf 0 s.index.toNat ++ [b] := by rw [index_succ_toNat hidx, cells_write_next]
    obtain ⟨t, hrest, hfresh, hcells⟩ := ih (s := { putCell s.index.toNat b s with index := s.index + 1 }) hf
      (show (s.index + 1).toNat + p.length + 1 = s.length.toNat by rw [index_succ_toNat hidx]; omega) hle
    simp only [putCell_buf, putCell_length, hheld, List.append_assoc, List.singleton_append] at hrest hcells
    exact ⟨t, feedAll_cons hmore hrest, hfresh, hcells⟩

/-- The address and a legal length, fed to a reset Framer, are the two bytes it then holds. -/
theorem feed_header (a : Byte) {l : Byte} {s : State} (hs : s.Fresh) (hl : legalLength l = true) :
    ∃ u v, feed a s = .next (u, .none) ∧ feed l u = .next (v, .none) ∧ v.fstate = .readingData ∧
      v.index.toNat = 2 ∧ v.length = l ∧ cells v.buf 0 2 = [a, l] := by
  refine ⟨(feedAddr a s).1, (feedLenOk l (feedAddr a s).1).1, by simp only [feed, hs.1]; rfl, ?_, rfl, rfl, rfl, ?_⟩
  · simp only [feed, feedAddr, hl, if_true]
    rfl
  · show cells (Memory.write (Memory.write s.buf 0 a) 1 l) 0 2 = _
    rw [cells_write_next, cells_write_next]
    rfl

/-- Settles O34: `feed_header`, then `feedAll_payload` on the two cells held. -/
theorem framerVerdictOnMessage : Obligations.FramerVerdictOnMessage := by
  intro a l c p s hs hlen hp
  have hlegal : legalLength l = true := legalLength_iff.mpr ⟨by omega, by omega⟩
  obtain ⟨u, v, hu, hv, hdata, hidx, rfl, hheld⟩ := feed_header a hs hlegal
  obtain ⟨t, hfeed, hfresh, hcells⟩ := feedAll_payload p c hdata (by omega) (by omega)
  rw [hidx, hheld] at hfeed hcells
  rw [hlen] at hcells
  exact ⟨t, feedAll_cons hu (feedAll_cons hv hfeed), hfresh, hcells⟩

/-! ### A changed byte (R109) -/

/-- Changing one byte changes the checksum. -/
theorem checksum_ne_of_byte_ne (m n : Frame) {x y : Byte} (h : y ≠ x) :
    checksum (m ++ y :: n) ≠ checksum (m ++ x :: n) := by
  intro heq
  have hxy : y.toNat ≠ x.toNat := fun e => h (BitVec.eq_of_toNat_eq e)
  have hx := x.isLt
  have hy := y.isLt
  rw [← BitVec.toNat_inj, checksum_toNat, checksum_toNat, byteSum_append, byteSum_append, byteSum, byteSum] at heq
  omega

/-- Settles O35: the verdict of O34 on each of the three messages. -/
theorem checksumByteDecidesTheVerdict : Obligations.ChecksumByteDecidesTheVerdict := by
  intro a l p s hs hlen hp
  refine ⟨?_, fun a' ha => ?_, fun p1 p2 x y hx hy => ?_⟩
  · obtain ⟨t, ht, -⟩ := framerVerdictOnMessage a l (checksum (a :: l :: p)) p s hs hlen hp
    exact ⟨t, by rw [ht, if_pos rfl]⟩
  · obtain ⟨t, ht, -⟩ := framerVerdictOnMessage a' l (checksum (a :: l :: p)) p s hs hlen hp
    have hne : checksum (a' :: l :: p) ≠ checksum (a :: l :: p) := checksum_ne_of_byte_ne [] (l :: p) ha
    exact ⟨t, by rw [ht, if_neg hne]⟩
  · subst hx
    have hsame : (p1 ++ y :: p2).length = (p1 ++ x :: p2).length := by simp
    obtain ⟨t, ht, -⟩ := framerVerdictOnMessage a l (checksum (a :: l :: (p1 ++ x :: p2))) (p1 ++ y :: p2) s hs
      (by rw [hsame, hlen]) (by rw [hsame]; exact hp)
    have hne : checksum (a :: l :: (p1 ++ y :: p2)) ≠ checksum (a :: l :: (p1 ++ x :: p2)) :=
      checksum_ne_of_byte_ne (a :: l :: p1) p2 hy
    exact ⟨t, by rw [ht, if_neg hne, hsame]⟩

end Sys2Proof.Machine
end

section
/-! The remaining Responder and output rows (42_responder.md R156, 43_host_interface.md R173, R174), the templates as
messages (30_encoding.md R79), and the actions of one event (41_session.md R120, R137). -/

namespace Sys2Proof

/-- The sixteen digits of R173, each at its value. -/
def hexDigits : List Char :=
  ['0', '1', '2', '3', '4', '5', '6', '7', '8', '9', 'A', 'B', 'C', 'D', 'E', 'F']

theorem hexDigit_eq_getElem? : ∀ n < 16, some (hexDigit n) = hexDigits[n]? := by decide

/-- Settles O50: the four frames are written out, so their checksums compute. -/
theorem templatesAreValidMessages : Obligations.TemplatesAreValidMessages := by
  intro k
  cases k <;> decide

end Sys2Proof

namespace Sys2Proof.Machine

/-- Settles O42: after the report only the result is left to set. -/
theorem otherTableIsOnlyReported : Obligations.OtherTableIsOnlyReported := by
  intro l i s h
  rw [exec_rspTableOther, rspTableData_of_le h]
  rfl

theorem exec_sendUpDiag (s : State) :
    exec .sendUpDiag s = .next { emitUp s.cfg.diagReport s with ret := .nothing } := rfl

/-- Settles O47: the text is that of the configuration. -/
theorem diagnosticTextIsHandedOver : Obligations.DiagnosticTextIsHandedOver := exec_sendUpDiag

theorem exec_hex2 (b : Byte) (s : State) : exec (.hex2 b) s = .next { s with ret := .chars (hex2 b) } := rfl

/-- Settles O49: each nibble is below 16. -/
theorem hexDigitsHighNibbleFirst : Obligations.HexDigitsHighNibbleFirst := by
  intro b s
  have hb : b.toNat < 256 := b.isLt
  exact ⟨exec_hex2 b s, hexDigits, rfl, hexDigit_eq_getElem? _ (by omega), hexDigit_eq_getElem? _ (by omega), rfl⟩

/-! ### The actions of one event (R120, R137) -/

/-- What one event may hand over before its signal. -/
def AreActions (acts : List Output) : Prop :=
  acts = [] ∨ (∃ k, acts = [.down (rom k)]) ∨ (∃ text, acts = [.up text]) ∨
    ∃ m, acts = [.up (report m), .down (rom .readTableB)]

theorem AreActions.none : AreActions [] := .inl rfl

theorem AreActions.request (k : Template) : AreActions [.down (rom k)] := .inr (.inl ⟨k, rfl⟩)

theorem AreActions.text (t : Text) : AreActions [.up t] := .inr (.inr (.inl ⟨t, rfl⟩))

theorem AreActions.report_request (m : Frame) : AreActions [.up (report m), .down (rom .readTableB)] :=
  .inr (.inr (.inr ⟨m, rfl⟩))

theorem classify_actions {s u : State} {st : SState} (h : classify s = .next (u, st)) :
    ∃ acts, u.trace = s.trace ++ acts ∧ AreActions acts := by
  rcases classify_cases h with ⟨rfl, -⟩ | ⟨rfl, -⟩ | ⟨m, -, rfl, -⟩ | ⟨m, -, rfl, -⟩
  · exact ⟨[], (List.append_nil _).symm, .none⟩
  · exact ⟨_, rfl, .request .readTableA⟩
  · exact ⟨_, List.append_assoc .., .report_request m⟩
  · exact ⟨_, rfl, .text _⟩

theorem runByte_actions {b : Byte} {s t : State} {c : ContinueSignal} (h : runByte b s = .next (t, c)) :
    ∃ acts, t.trace = s.trace ++ acts ∧ AreActions acts := by
  obtain ⟨-, u, r, hf, hc⟩ := runByte_cases h
  rw [← (feed_trace_cfg hf).1]
  rcases hc with ⟨-, rfl⟩ | ⟨-, rfl⟩ | ⟨-, v, st, hcl, rfl⟩
  · exact ⟨[], (List.append_nil _).symm, .none⟩
  · exact ⟨[], (List.append_nil _).symm, .none⟩
  · obtain ⟨acts, hacts⟩ := classify_actions hcl
    exact ⟨acts, hacts⟩

theorem byteArm_actions {b : Byte} {s t : State} {c : ContinueSignal} (h : byteArm b s = .next (t, c)) :
    ∃ acts, t.trace = s.trace ++ acts ∧ AreActions acts := by
  by_cases hrun : s.sstate = .run
  · exact runByte_actions (byteArm_of_run b hrun ▸ h)
  · rw [byteArm_of_not_run b hrun] at h
    cases h
    exact ⟨[], (List.append_nil _).symm, .none⟩

/-- A Tick's arm takes at most one action. -/
theorem tickArm_actions {s t : State} {c : ContinueSignal} (h : tickArm s = .next (t, c)) :
    ∃ acts, t.trace = s.trace ++ acts ∧ AreActions acts ∧ acts.length ≤ 1 := by
  rcases tickArm_cases h with ⟨-, e⟩ | ⟨-, -, rfl | ⟨k, st, wd, -, -, rfl⟩⟩
  · rcases runTick_cases s with ⟨w, e', -⟩ | ⟨w, e', -⟩ <;> obtain ⟨rfl, -⟩ := Prod.mk.inj (e'.symm.trans e)
    · exact ⟨[], (List.append_nil _).symm, .none, Nat.zero_le _⟩
    · exact ⟨_, rfl, .text _, le_rfl⟩
  · exact ⟨[], (List.append_nil _).symm, .none, Nat.zero_le _⟩
  · exact ⟨_, rfl, .request k, le_rfl⟩

theorem stepTick_actions {s t : State} {c : ContinueSignal} (h : stepTick s = .next (t, c)) :
    ∃ acts, t.trace = s.trace ++ acts ∧ AreActions acts ∧ acts.length ≤ 1 := by
  rcases stepTick_cases s with ⟨-, -, e⟩ | ⟨-, -, e⟩ | ⟨-, e⟩ <;> rw [e] at h
  · cases h
    exact ⟨[], (List.append_nil _).symm, .none, Nat.zero_le _⟩
  · obtain ⟨acts, hacts⟩ := tickArm_actions h
    exact ⟨acts, hacts⟩
  · exact tickArm_actions h

theorem sessionStep_actions {r : Reason} {b : Byte} {s t : State} {c : ContinueSignal}
    (h : sessionStep r b s = .next (t, c)) :
    ∃ acts, t.trace = s.trace ++ acts ∧ AreActions acts ∧ (r = .tick → acts.length ≤ 1) ∧
      (r = .forceReinit → acts = []) := by
  cases r with
  | tick =>
    obtain ⟨acts, htrace, hacts, hlen⟩ := stepTick_actions h
    exact ⟨acts, htrace, hacts, fun _ => hlen, nofun⟩
  | byteReceived =>
    obtain ⟨acts, htrace, hacts⟩ := byteArm_actions h
    exact ⟨acts, htrace, hacts, nofun, nofun⟩
  | forceReinit =>
    cases h
    exact ⟨[], (List.append_nil _).symm, .none, nofun, fun _ => rfl⟩

/-- Settles O51: the actions of the call, and then the signal that `deliver` appends. -/
theorem eventHandsOverActionsThenSignal : Obligations.EventHandsOverActionsThenSignal := by
  intro r b s t h
  rw [exec_eventOf] at h
  obtain ⟨u, c, hstep, rfl⟩ := deliver_eq_next.mp h
  obtain ⟨acts, htrace, hacts⟩ := sessionStep_actions hstep
  exact ⟨acts, c, by rw [← htrace], rfl, hacts⟩

end Sys2Proof.Machine
end

section
/-! Who writes what (10_state.md section 12, R42): every row belongs to one part of the core, `exec_frame` says once
what the rows of a part leave alone, and the statements about the writers read it. -/

namespace Sys2Proof

/-- The parts of the core, by what their rows may write: the Framer its registers and the buffer, the Session its
registers and the outputs, the Responder and the output rows the outputs, a byte that reaches the Framer in Run all of
these. -/
inductive Part where
  | framer
  | session
  | outputs
  | byte

/-- The part a row belongs to (R42). -/
def Instr.part : Instr → Part
  | .feedAddr _ | .feedLenOk _ | .feedLenBad _ | .feedData _ | .reset => .framer
  | .evTick _ | .evForceReinit _ | .sForceReinit _ | .sThrottle _ | .sIdleAny _ _ | .sLinebreakAny _ _ | .sWakeTick
  | .sDropByteWake _ | .sInitTick | .sDropByteInit _ | .sRunTick | .sRetryTick | .sDropByteRetry _ | .sRunOk | .sRunErr
  | .sRunNone => .session
  | .checksum | .rspInitAck _ _ | .rspTableData _ _ | .rspTableA _ | .rspTableB _ | .rspTableOther _ _ | .rspOther _ _ _
  | .nonResponse _ _ _ _ | .sendDownWake | .sendDownInit | .sendDownReadTableA | .sendDownReadTableB | .sendUpReport _
  | .sendUpDiag | .sendUp _ | .hex2 _ => .outputs
  | .evByte _ | .sRunByte _ => .byte

/-- Does the part write the Framer's registers or the buffer? -/
def Part.writesFramer : Part → Bool
  | .framer | .byte => true
  | .session | .outputs => false

/-- Does the part write the Session's registers? -/
def Part.writesSession : Part → Bool
  | .session | .byte => true
  | .framer | .outputs => false

/-- From `s` to `t` only what the part may write has changed. -/
def Part.Frame : Part → Machine.State → Machine.State → Prop
  | .framer, s, t => t = { s with
      fstate := t.fstate, index := t.index, length := t.length, buf := t.buf, ret := t.ret }
  | .session, s, t => t = { s with
      sstate := t.sstate, tickCount := t.tickCount, watchdogCount := t.watchdogCount, trace := t.trace, ret := t.ret }
  | .outputs, s, t => t = { s with trace := t.trace, ret := t.ret }
  | .byte, s, t => t.cfg = s.cfg ∧ t.inbox = s.inbox

end Sys2Proof

namespace Sys2Proof.Machine

/-! ### What each part leaves alone -/

/-- FEED_DATA stores its byte at the cursor and touches only the Framer (R104). -/
theorem feedData_frame {b : Byte} {s u : State} {r : FResult} (h : feedData b s = .next (u, r)) :
    u = { s with
      fstate := u.fstate, index := u.index, length := u.length, buf := Memory.write s.buf s.index.toNat b } := by
  rcases feedData_cases b s with ⟨r', -, e, -⟩ | ⟨e, -⟩ | ⟨e, -⟩ <;> rw [e] at h <;> cases h <;> rfl

theorem ResponderRow.frame {i : Instr} {s t : State} (hi : ResponderRow i) (h : exec i s = .next t) :
    Part.outputs.Frame s t := by
  obtain ⟨new, ht, -⟩ := hi.replies h
  show t = _
  rw [ht]

theorem exec_evTick_frame {b : Byte} {s t : State} (h : exec (.evTick b) s = .next t) : Part.session.Frame s t := by
  obtain ⟨u, c, e, hu⟩ := tickAlwaysCompletes b s
  obtain rfl := Host.Outcome.next.inj (e.symm.trans h)
  show u = _
  rw [hu]

theorem exec_sThrottle_frame {st : SState} {s t : State} (h : exec (.sThrottle st) s = .next t) :
    t = { s with tickCount := t.tickCount, ret := t.ret } := by
  cases h
  rw [throttleTick_frame s]

theorem exec_sRunTick_frame {s t : State} (h : exec .sRunTick s = .next t) : Part.session.Frame s t := by
  rw [exec_sRunTick] at h
  rcases runTick_cases s with ⟨w, e, -⟩ | ⟨w, e, -⟩ <;> rw [e] at h <;> cases h <;> rfl

theorem exec_sRunOk_frame {s t : State} (h : exec .sRunOk s = .next t) : Part.session.Frame s t := by
  rw [exec_sRunOk] at h
  obtain ⟨u, c, e, rfl⟩ := returning_eq_next.mp h
  show _ = _
  rw [(runOk_frame e).1]

theorem exec_checksum_frame {s t : State} (h : exec .checksum s = .next t) : Part.outputs.Frame s t := by
  replace h : execChecksum s = .next t := h
  unfold execChecksum at h
  split at h <;> cases h
  rfl

theorem exec_feedData_frame {b : Byte} {s t : State} (h : exec (.feedData b) s = .next t) :
    Part.framer.Frame s t ∧ t.buf = Memory.write s.buf s.index.toNat b := by
  obtain ⟨u, r, e, rfl⟩ := returning_eq_next.mp h
  show _ = _ ∧ _ = _
  rw [feedData_frame e]
  exact ⟨rfl, rfl⟩

theorem exec_sRunByte_frame {b : Byte} {s t : State} (h : exec (.sRunByte b) s = .next t) :
    Part.byte.Frame s t ∧ t.buf = Memory.write s.buf s.nextCell b := by
  obtain ⟨u, c, e, rfl⟩ := returning_eq_next.mp h
  obtain ⟨hbuf, hcfg, hinbox, -⟩ := runByte_frame e
  exact ⟨⟨hcfg, hinbox⟩, hbuf⟩

/-- A byte event in Run is S_RUN_BYTE with its signal handed over. -/
theorem exec_evByte_frame_of_run {b : Byte} {s t : State} (hrun : s.sstate = .run)
    (h : exec (.evByte b) s = .next t) : Part.byte.Frame s t ∧ t.buf = Memory.write s.buf s.nextCell b := by
  rw [exec_evByte, byteArm_of_run b hrun] at h
  obtain ⟨u, c, e, rfl⟩ := deliver_eq_next.mp h
  obtain ⟨hbuf, hcfg, hinbox, -⟩ := runByte_frame e
  exact ⟨⟨hcfg, hinbox⟩, hbuf⟩

theorem exec_evByte_frame_of_not_run {b : Byte} {s t : State} (hrun : s.sstate ≠ .run)
    (h : exec (.evByte b) s = .next t) : Part.outputs.Frame s t := by
  rw [exec_evByte_of_not_run b hrun] at h
  cases h
  rfl

theorem exec_evByte_frame {b : Byte} {s t : State} (h : exec (.evByte b) s = .next t) : Part.byte.Frame s t := by
  by_cases hrun : s.sstate = .run
  · exact (exec_evByte_frame_of_run hrun h).1
  · have ht : t = _ := exec_evByte_frame_of_not_run hrun h
    rw [ht]
    exact ⟨rfl, rfl⟩

/-- A row that answers has written nothing but what its part may write. -/
theorem exec_frame {i : Instr} {s t : State} (h : exec i s = .next t) : i.part.Frame s t := by
  cases i with
  | evTick => exact exec_evTick_frame h
  | evByte => exact exec_evByte_frame h
  | sThrottle =>
    show t = _
    rw [exec_sThrottle_frame h]
  | sRunTick => exact exec_sRunTick_frame h
  | sRunByte => exact (exec_sRunByte_frame h).1
  | sRunOk => exact exec_sRunOk_frame h
  | feedData => exact (exec_feedData_frame h).1
  | checksum => exact exec_checksum_frame h
  | rspInitAck l i => exact (ResponderRow.initAck l i).frame h
  | rspTableData l i => exact (ResponderRow.tableData l i).frame h
  | rspTableA l => exact (ResponderRow.tableA l).frame h
  | rspTableB l => exact (ResponderRow.tableB l).frame h
  | rspTableOther l i => exact (ResponderRow.tableOther l i).frame h
  | rspOther l o i => exact (ResponderRow.other l o i).frame h
  | nonResponse a l o i => exact (ResponderRow.nonResponse a l o i).frame h
  | evForceReinit | sForceReinit | sIdleAny | sLinebreakAny | sWakeTick | sDropByteWake | sInitTick | sDropByteInit
  | sRetryTick | sDropByteRetry | sRunErr | sRunNone | feedAddr | feedLenOk | feedLenBad | reset | sendDownWake
  | sendDownInit | sendDownReadTableA | sendDownReadTableB | sendUpReport | sendUpDiag | sendUp | hex2 =>
    cases h
    rfl

theorem exec_keeps_framer {i : Instr} {s t : State} (h : exec i s = .next t) (hi : i.part.writesFramer = false) :
    (t.fstate = s.fstate ∧ t.index = s.index ∧ t.length = s.length) ∧ t.buf = s.buf := by
  have ht := exec_frame h
  cases hp : i.part <;> rw [hp] at hi ht
  case framer | byte => cases hi
  all_goals
    replace ht : t = _ := ht
    rw [ht]
    exact ⟨⟨rfl, rfl, rfl⟩, rfl⟩

theorem exec_keeps_session {i : Instr} {s t : State} (h : exec i s = .next t) (hi : i.part.writesSession = false) :
    t.sstate = s.sstate ∧ t.tickCount = s.tickCount ∧ t.watchdogCount = s.watchdogCount := by
  have ht := exec_frame h
  cases hp : i.part <;> rw [hp] at hi ht
  case session | byte => cases hi
  all_goals
    replace ht : t = _ := ht
    rw [ht]
    exact ⟨rfl, rfl, rfl⟩

theorem exec_keeps_cfg_inbox {i : Instr} {s t : State} (h : exec i s = .next t) :
    t.cfg = s.cfg ∧ t.inbox = s.inbox := by
  have ht := exec_frame h
  cases hp : i.part <;> rw [hp] at ht
  case byte => exact ht
  all_goals
    replace ht : t = _ := ht
    rw [ht]
    exact ⟨rfl, rfl⟩

/-! ### The writers -/

/-- Settles O57: the rows that reach the Framer store one byte, the others are `exec_keeps_framer`. -/
theorem onlyFeedWritesTheBuffer : Obligations.OnlyFeedWritesTheBuffer := by
  intro i s t h
  have hwrite {k : Nat} {b : Byte} (hbuf : t.buf = Memory.write s.buf k b) (a : Nat) :
      Memory.read t.buf a = if a = k then b else Memory.read s.buf a := by rw [hbuf, Memory.read_write]
  cases i
  case feedAddr | feedLenOk | feedLenBad => cases h; exact hwrite rfl
  case feedData => exact hwrite (exec_feedData_frame h).2
  case sRunByte => exact hwrite (exec_sRunByte_frame h).2
  case evByte b =>
    by_cases hrun : s.sstate = .run
    · simpa only [hrun, true_and] using hwrite (exec_evByte_frame_of_run hrun h).2
    · have ht : t = _ := exec_evByte_frame_of_not_run hrun h
      rw [ht]
      simp only [hrun, false_and, if_false, implies_true]
  case reset => cases h; rfl
  all_goals exact (exec_keeps_framer h rfl).2

/-- Settles O58: `exec_keeps_framer`, and outside Run a byte leaves the Framer alone; the rows that write the Framer's
registers are excepted by the statement. -/
theorem framerRegistersChangeOnlyInFeedAndReset : Obligations.FramerRegistersChangeOnlyInFeedAndReset := by
  intro i s t h
  cases i
  case feedAddr | feedLenOk | feedLenBad | feedData | reset | sRunByte => trivial
  case evByte b =>
    by_cases hrun : s.sstate = .run
    · exact .inl hrun
    · have ht : t = _ := exec_evByte_frame_of_not_run hrun h
      rw [ht]
      exact .inr ⟨rfl, rfl, rfl⟩
  all_goals exact (exec_keeps_framer h rfl).1

/-- Settles O60: `exec_keeps_cfg_inbox`, and a step takes the head of the inbox before it executes. -/
theorem parametersNeverChange : Obligations.ParametersNeverChange := by
  refine ⟨fun _ _ _ => exec_keeps_cfg_inbox, fun s t h => ?_⟩
  rcases step_cases h with ⟨hin, rfl⟩ | ⟨w, rest, r, b, hin, -, he⟩
  · exact ⟨rfl, by rw [hin]; rfl⟩
  · rw [hin]
    exact exec_keeps_cfg_inbox he

/-! ### LineBreak is not entered (decision D18) -/

/-- From `old` to `new` the Session has not entered LineBreak. -/
def NoLineBreakEntry (old new : SState) : Prop := new ≠ .lineBreak ∨ old = .lineBreak

namespace NoLineBreakEntry

theorem refl (st : SState) : NoLineBreakEntry st st := (em _).symm

theorem of_eq {old new : SState} (h : new = old) : NoLineBreakEntry old new := h ▸ refl new

theorem of_run_or_retryTableA {old new : SState} (h : new = .run ∨ new = .retryTableA) : NoLineBreakEntry old new := by
  rcases h with rfl | rfl <;> exact .inl nofun

end NoLineBreakEntry

theorem runTick_sstate (s : State) : (runTick s).1.sstate = s.sstate := by
  rcases runTick_cases s with ⟨w, e, -⟩ | ⟨w, e, -⟩
  · rw [e]
  · rw [e]; rfl

theorem tickArm_noLineBreakEntry {s t : State} {c : ContinueSignal} (h : tickArm s = .next (t, c)) :
    NoLineBreakEntry s.sstate t.sstate := by
  rcases tickArm_cases h with ⟨-, e⟩ | ⟨-, -, rfl | ⟨k, st, wd, rfl | rfl, -, rfl⟩⟩
  · have hst := runTick_sstate s
    rw [e] at hst
    exact .of_eq hst
  · exact .refl _
  · exact .inl nofun
  · exact .inl nofun

theorem stepTick_noLineBreakEntry {s t : State} {c : ContinueSignal} (h : stepTick s = .next (t, c)) :
    NoLineBreakEntry s.sstate t.sstate := by
  rcases stepTick_cases s with ⟨-, -, e⟩ | ⟨-, -, e⟩ | ⟨-, e⟩ <;> rw [e] at h
  · cases h
    exact .refl s.sstate
  · exact (tickArm_noLineBreakEntry h :)
  · exact tickArm_noLineBreakEntry h

theorem runByte_noLineBreakEntry {b : Byte} {s t : State} {c : ContinueSignal} (h : runByte b s = .next (t, c)) :
    NoLineBreakEntry s.sstate t.sstate := by
  obtain ⟨-, -, -, hst | hst⟩ := runByte_frame h
  · exact .of_eq hst
  · exact .of_run_or_retryTableA hst

theorem sessionStep_noLineBreakEntry {r : Reason} {b : Byte} {s t : State} {c : ContinueSignal}
    (h : sessionStep r b s = .next (t, c)) : NoLineBreakEntry s.sstate t.sstate := by
  cases r with
  | tick => exact stepTick_noLineBreakEntry h
  | forceReinit =>
    cases h
    exact .inl nofun
  | byteReceived =>
    by_cases hrun : s.sstate = .run
    · exact runByte_noLineBreakEntry ((byteArm_of_run b hrun).symm.trans h)
    · cases (byteArm_of_not_run b hrun).symm.trans h
      exact .refl _

theorem exec_eventOf_noLineBreakEntry {r : Reason} {b : Byte} {s t : State} (h : exec (eventOf r b) s = .next t) :
    NoLineBreakEntry s.sstate t.sstate := by
  rw [exec_eventOf] at h
  obtain ⟨u, c, e, rfl⟩ := deliver_eq_next.mp h
  exact (sessionStep_noLineBreakEntry e :)

theorem exec_sRunByte_noLineBreakEntry {b : Byte} {s t : State} (h : exec (.sRunByte b) s = .next t) :
    NoLineBreakEntry s.sstate t.sstate := by
  obtain ⟨u, c, e, rfl⟩ := returning_eq_next.mp h
  exact (runByte_noLineBreakEntry e :)

theorem exec_sRunOk_noLineBreakEntry {s t : State} (h : exec .sRunOk s = .next t) :
    NoLineBreakEntry s.sstate t.sstate := by
  rw [exec_sRunOk] at h
  obtain ⟨u, c, e, rfl⟩ := returning_eq_next.mp h
  exact .of_run_or_retryTableA (runOk_frame e).2

theorem enterRetry_noLineBreakEntry (s : State) : NoLineBreakEntry s.sstate (enterRetry s).sstate := by
  rw [enterRetry_sstate]
  split
  · exact .inl nofun
  · exact .refl _

/-- Settles O59: the rows outside the Session are `exec_keeps_session`; of the Session's, each keeps its state or leaves
it for one other than LineBreak. -/
theorem sessionRegistersChangeOnlyInSession : Obligations.SessionRegistersChangeOnlyInSession := by
  intro i s t h
  cases i
  case evTick b => exact exec_eventOf_noLineBreakEntry (r := .tick) (b := b) h
  case evByte b => exact exec_eventOf_noLineBreakEntry (r := .byteReceived) (b := b) h
  case sRunByte => exact exec_sRunByte_noLineBreakEntry h
  case sRunOk => exact exec_sRunOk_noLineBreakEntry h
  case sRunErr => cases h; exact enterRetry_noLineBreakEntry s
  case sRunTick => cases h; exact NoLineBreakEntry.of_eq (runTick_sstate s)
  case sThrottle => exact NoLineBreakEntry.of_eq (by rw [exec_sThrottle_frame h])
  case evForceReinit | sForceReinit | sWakeTick | sInitTick | sRetryTick => cases h; exact .inl nofun
  case sIdleAny | sLinebreakAny | sDropByteWake | sDropByteInit | sDropByteRetry | sRunNone =>
    cases h
    exact NoLineBreakEntry.refl _
  all_goals exact exec_keeps_session h rfl

end Sys2Proof.Machine
end
